-- ==== Sys2Proof/Word.lean ====
section
/-! DEFINITION. The word types of gf_multiplier's port and registers (R9, R30, R81, R83). -/

namespace Sys2Proof

/-- An operand register, the data word DATA, and the result word RESULT: 64 bits (R30, R81). -/
abbrev Word := BitVec 64

/-- A command word CMD: 32 bits (R83). -/
abbrev CmdWord := BitVec 32

/-- A register field RD, RS1 or RS2: an index of X0..X7 (R83, R84). -/
abbrev RegIdx := BitVec 3

/-- A CSR number, the FN field of RDCSR: 0..8 exist, 9..15 are reserved (R33, R84). -/
abbrev CsrIdx := BitVec 4

end Sys2Proof
end

