-- ==== Sys2Proof/Syntax.lean ====
section
/-! DEFINITION. The syntax of the 25 commands (R86, opcode_table.json): one constructor a row. -/

namespace Sys2Proof

/-- The field-order selector KSEL: k = 4, 8, 16 or 32, in the order of its encodings 0..3 (R7). -/
inductive KSel where
  | k4
  | k8
  | k16
  | k32
  deriving DecidableEq, Repr

/-- The commands of R86. `rd`, `rs1` and `rs2` are register indices. LDI carries the data word that
travels with its command word, the only immediate operand of the block (R84). RDCSR keeps its CSR
number as the four bits of FN, since 9..15 are numbers the spec speaks of (R33). -/
inductive Instr where
  | nop
  | ldi (rd : RegIdx) (imm : Word)
  | mov (rd rs1 : RegIdx)
  | rdcsr (rd : RegIdx) (csr : CsrIdx)
  | cfg (ksel : KSel) (rs1 : RegIdx)
  | clrst
  | add (rd rs1 rs2 : RegIdx)
  | mul (rd rs1 rs2 : RegIdx)
  | mull (rd rs1 rs2 : RegIdx)
  | modr (rd rs1 : RegIdx)
  | inv (rd rs1 : RegIdx)
  | div (rd rs1 rs2 : RegIdx)
  | pow (rd rs1 rs2 : RegIdx)
  | bldlx (rs1 : RegIdx)
  | logrd (rd rs1 : RegIdx)
  | exprd (rd rs1 : RegIdx)
  | mulx (rd rs1 rs2 : RegIdx)
  | invx (rd rs1 : RegIdx)
  | powx (rd rs1 rs2 : RegIdx)
  | nbm (rd rs1 rs2 : RegIdx)
  | bldrt
  | rtrd (rd rs1 : RegIdx)
  | msl8 (rd rs1 : RegIdx)
  | modrb (rd rs1 : RegIdx)
  | muld (rd rs1 rs2 : RegIdx)
  deriving DecidableEq, Repr

end Sys2Proof
end

