-- ==== Sys2Proof/Machine/State.lean ====
section
/-! DEFINITION. The state of gf_multiplier: R45's record, the port's sampled command (R82), and the
model's own three fields; the reasons a step could stop; the state after reset (R252). -/

namespace Sys2Proof.Machine

/-- The completion codes 0..7 of R220, in their numbers' order. Codes 8..15 are never produced. -/
inductive CC where
  | ok
  | illegal
  | nocfg
  | width
  | operand
  | table
  | notGenerator
  | notInvertible
  deriving DecidableEq, Repr

/-- The port phase (R44). -/
inductive Phase where
  /-- ready for a command -/
  | idle
  /-- executing a command -/
  | busy
  /-- a response is waiting to be taken -/
  | respond
  deriving DecidableEq, Repr

/-- What the host drives onto the block's input pins at one rising edge of clk (R81). -/
structure Pins where
  rst : Bool
  cmdValid : Bool
  cmdWord : CmdWord
  cmdData : Word
  rspReady : Bool
  deriving DecidableEq, Repr

/-- Every input pin at 0: the edge at which the host asks for nothing. -/
def Pins.quiet : Pins :=
  { rst := false, cmdValid := false, cmdWord := 0, cmdData := 0, rspReady := false }

/-- The state of the block. The fields down to `pending` are R45's record. -/
structure State where
  /-- X0..X7 (R30) -/
  x : Vector Word 8
  /-- KSEL (R35) -/
  ksel : KSel
  /-- POLY, the compact polynomial (R36) -/
  poly : BitVec 32
  /-- GEN (R38) -/
  gen : BitVec 8
  /-- STATUS.LASTCC (R34) -/
  lastCC : CC
  /-- STATUS.ERR (R34) -/
  err : Bool
  /-- STATUS.CFG_VALID (R34) -/
  cfgValid : Bool
  /-- STATUS.LX_VALID (R34) -/
  lxValid : Bool
  /-- STATUS.RT_VALID (R34) -/
  rtValid : Bool
  /-- the RT table memory (R40) -/
  rt : Vector (BitVec 16) 256
  /-- the LOG table memory, two's complement entries (R41) -/
  log : Vector (BitVec 9) 256
  /-- the EXP table memory (R42) -/
  exp : Vector (BitVec 8) 1024
  /-- the port phase (R44) -/
  phase : Phase
  /-- the pending response (CC, RESULT) (R44) -/
  pending : Option (CC × Word)
  /-- the command word the block sampled at the last command transfer (R82; log 6) -/
  cmdWord : CmdWord
  /-- the data word sampled with it (R82; log 6) -/
  cmdData : Word
  /-- MODEL's own: edges still to pass in BUSY before the completing edge (R262; log 2) -/
  busyLeft : Nat
  /-- MODEL's own: how many commands have been accepted, which the free latency may depend on (log 2) -/
  accepted : Nat
  /-- MODEL's own: the host's pin samples still to come, one per rising edge (R81; log 1) -/
  inputs : List Pins
  deriving DecidableEq, Repr

/-- Why a step stops with a fault: there is no such reason, so there is no constructor. Every word
decodes or completes with ILLEGAL (R88), every index is in range (R61, R64, R169), every command
terminates (R262) and the block never halts itself (R263); an error completion is a next state (R223).
No step of this model raises a fault; that is the spec's own statement, so safe. -/
inductive Fault where
  deriving DecidableEq, Repr

/-- Why a step is refused. -/
inductive Refusal where
  /-- Raised by an arm of exec that has no meaning yet. Safe: it stops the run. Every instruction of the
  opcode table has its meaning, so no arm raises it. -/
  | notModelled (mnemonic : String)
  deriving DecidableEq, Repr

/-- The state after reset (R252). Table contents are unspecified there and no command can observe
them; the model names 0 (DESIGN CHOICE, log 3; unsafe). The sampled command and the model's own
fields start at 0 (DESIGN CHOICE, log 1, 2 and 6). -/
def State.reset : State :=
  { x := Vector.replicate 8 0
    ksel := .k4
    poly := 0
    gen := 0
    lastCC := .ok
    err := false
    cfgValid := false
    lxValid := false
    rtValid := false
    rt := Vector.replicate 256 0
    log := Vector.replicate 256 0
    exp := Vector.replicate 1024 0
    phase := .idle
    pending := none
    cmdWord := 0
    cmdData := 0
    busyLeft := 0
    accepted := 0
    inputs := [] }

end Sys2Proof.Machine
end

