-- ==== Sys2Proof/Config.lean ====
section
/-! DEFINITION. What the spec leaves to an implementation: the latency of a command, and nothing else
(92_eei_decisions.md: "The only exception is latency"). -/

namespace Sys2Proof

/-- How many rising edges of clk the block stays in BUSY before the edge that completes a command, from
the command and data word that transfer and the state at the transfer. The spec calls it finite and
unspecified, lets it depend on the command and its operands, and names it `latency : Cmd → State → Nat`
(R11, R262, D26). FREE VALUE (log 2): it has no body. The state it is given counts the accepted
commands, so equal commands on equal operands may still differ. -/
opaque Config.latency : CmdWord → Word → Machine.State → Nat

end Sys2Proof
end

