-- ==== Sys2Proof/WellFormed.lean ====
section
/-! DEFINITION. Which terms of Instr are commands of the spec. -/

namespace Sys2Proof

/-- The one constraint the types of Syntax.lean do not carry: "RDCSR also needs FN ≤ 8" (R86, R88 (c)). -/
def Instr.wellFormed : Instr → Bool
  | .rdcsr _ csr => decide (csr ≤ 8)
  | .nop | .ldi _ _ | .mov _ _ | .cfg _ _ | .clrst => true
  | .add _ _ _ | .mul _ _ _ | .mull _ _ _ | .modr _ _ | .inv _ _ | .div _ _ _ | .pow _ _ _ => true
  | .bldlx _ | .logrd _ _ | .exprd _ _ | .mulx _ _ _ | .invx _ _ | .powx _ _ _ => true
  | .nbm _ _ _ | .bldrt | .rtrd _ _ | .msl8 _ _ | .modrb _ _ | .muld _ _ _ => true

end Sys2Proof
end

