-- ==== Sys2Proof/Decode.lean ====
section
/-! DEFINITION. The decoder of command words, total and rejecting by name (R83 to R88), and after it the
encoder, written from the same rules. -/

namespace Sys2Proof

/-- Bits [7:0] of a command word, the opcode (R83). -/
def fieldOp (c : CmdWord) : BitVec 8 := c.extractLsb' 0 8

/-- Bits [10:8], the destination register (R83). -/
def fieldRd (c : CmdWord) : RegIdx := c.extractLsb' 8 3

/-- Bits [13:11], the first source register (R83). -/
def fieldRs1 (c : CmdWord) : RegIdx := c.extractLsb' 11 3

/-- Bits [16:14], the second source register (R83). -/
def fieldRs2 (c : CmdWord) : RegIdx := c.extractLsb' 14 3

/-- Bits [20:17], the function field (R83). -/
def fieldFn (c : CmdWord) : BitVec 4 := c.extractLsb' 17 4

/-- FN[1:0] of CFG names the field order (R7, R84). -/
def kselOfBits (b : BitVec 2) : KSel :=
  if b = 0 then .k4 else if b = 1 then .k8 else if b = 2 then .k16 else .k32

/-- The two-bit encoding of KSEL (R7). -/
def kselBits : KSel → BitVec 2
  | .k4 => 0
  | .k8 => 1
  | .k16 => 2
  | .k32 => 3

/-- The formats of R85. -/
inductive Format where
  | n
  | d
  | r1
  | r2
  | s
  | c
  | x
  deriving DecidableEq, Repr

/-- The mask of a format: the bits that are the opcode or must be 0 (R85). -/
def formatMask : Format → CmdWord
  | .n => 0xFFFFFFFF
  | .d => 0xFFFFF8FF
  | .r1 => 0xFFFFC0FF
  | .r2 => 0xFFFE00FF
  | .s => 0xFFFFC7FF
  | .c => 0xFFF9C7FF
  | .x => 0xFFE1F8FF

/-- Why a command word is illegal: the three cases (a), (b) and (c) of R88. -/
inductive DecodeError where
  /-- (a) CMD[7:0] is none of the 25 opcodes. -/
  | unassignedOpcode
  /-- (b) a must-be-zero bit of the opcode's format is 1. -/
  | mustBeZero
  /-- (c) RDCSR with FN in 9..15. -/
  | reservedCsr
  deriving DecidableEq, Repr

/-- A word of an assigned opcode is its row's command if `(CMD & mask) == OP` (R86). -/
def decodeRow (f : Format) (c : CmdWord) (i : Instr) : Except DecodeError Instr :=
  if c &&& formatMask f = (fieldOp c).setWidth 32 then .ok i else .error .mustBeZero

/-- The decoder (R86, R88): the command that a command word and its data word stand for, or why the
word is illegal. Only LDI looks at the data word (R84). -/
def decode (c : CmdWord) (d : Word) : Except DecodeError Instr :=
  match fieldOp c with
  | 0x00#8 => decodeRow .n c .nop
  | 0x01#8 => decodeRow .d c (.ldi (fieldRd c) d)
  | 0x02#8 => decodeRow .r1 c (.mov (fieldRd c) (fieldRs1 c))
  | 0x03#8 =>
    match decodeRow .x c (.rdcsr (fieldRd c) (fieldFn c)) with
    | .ok i => if fieldFn c ≤ 8 then .ok i else .error .reservedCsr
    | .error e => .error e
  | 0x04#8 => decodeRow .c c (.cfg (kselOfBits ((fieldFn c).extractLsb' 0 2)) (fieldRs1 c))
  | 0x05#8 => decodeRow .n c .clrst
  | 0x10#8 => decodeRow .r2 c (.add (fieldRd c) (fieldRs1 c) (fieldRs2 c))
  | 0x11#8 => decodeRow .r2 c (.mul (fieldRd c) (fieldRs1 c) (fieldRs2 c))
  | 0x12#8 => decodeRow .r2 c (.mull (fieldRd c) (fieldRs1 c) (fieldRs2 c))
  | 0x13#8 => decodeRow .r1 c (.modr (fieldRd c) (fieldRs1 c))
  | 0x14#8 => decodeRow .r1 c (.inv (fieldRd c) (fieldRs1 c))
  | 0x15#8 => decodeRow .r2 c (.div (fieldRd c) (fieldRs1 c) (fieldRs2 c))
  | 0x16#8 => decodeRow .r2 c (.pow (fieldRd c) (fieldRs1 c) (fieldRs2 c))
  | 0x20#8 => decodeRow .s c (.bldlx (fieldRs1 c))
  | 0x21#8 => decodeRow .r1 c (.logrd (fieldRd c) (fieldRs1 c))
  | 0x22#8 => decodeRow .r1 c (.exprd (fieldRd c) (fieldRs1 c))
  | 0x23#8 => decodeRow .r2 c (.mulx (fieldRd c) (fieldRs1 c) (fieldRs2 c))
  | 0x24#8 => decodeRow .r1 c (.invx (fieldRd c) (fieldRs1 c))
  | 0x25#8 => decodeRow .r2 c (.powx (fieldRd c) (fieldRs1 c) (fieldRs2 c))
  | 0x30#8 => decodeRow .r2 c (.nbm (fieldRd c) (fieldRs1 c) (fieldRs2 c))
  | 0x31#8 => decodeRow .n c .bldrt
  | 0x32#8 => decodeRow .r1 c (.rtrd (fieldRd c) (fieldRs1 c))
  | 0x33#8 => decodeRow .r1 c (.msl8 (fieldRd c) (fieldRs1 c))
  | 0x34#8 => decodeRow .r1 c (.modrb (fieldRd c) (fieldRs1 c))
  | 0x35#8 => decodeRow .r2 c (.muld (fieldRd c) (fieldRs1 c) (fieldRs2 c))
  | _ => .error .unassignedOpcode

/-- The opcode of a command (R86). -/
def opcodeOf : Instr → BitVec 8
  | .nop => 0x00
  | .ldi _ _ => 0x01
  | .mov _ _ => 0x02
  | .rdcsr _ _ => 0x03
  | .cfg _ _ => 0x04
  | .clrst => 0x05
  | .add _ _ _ => 0x10
  | .mul _ _ _ => 0x11
  | .mull _ _ _ => 0x12
  | .modr _ _ => 0x13
  | .inv _ _ => 0x14
  | .div _ _ _ => 0x15
  | .pow _ _ _ => 0x16
  | .bldlx _ => 0x20
  | .logrd _ _ => 0x21
  | .exprd _ _ => 0x22
  | .mulx _ _ _ => 0x23
  | .invx _ _ => 0x24
  | .powx _ _ _ => 0x25
  | .nbm _ _ _ => 0x30
  | .bldrt => 0x31
  | .rtrd _ _ => 0x32
  | .msl8 _ _ => 0x33
  | .modrb _ _ => 0x34
  | .muld _ _ _ => 0x35

/-- The format of a command (R85, R86). -/
def formatOf : Instr → Format
  | .nop | .clrst | .bldrt => .n
  | .ldi _ _ => .d
  | .mov _ _ | .modr _ _ | .inv _ _ | .logrd _ _ | .exprd _ _ | .invx _ _ => .r1
  | .rtrd _ _ | .msl8 _ _ | .modrb _ _ => .r1
  | .add _ _ _ | .mul _ _ _ | .mull _ _ _ | .div _ _ _ | .pow _ _ _ => .r2
  | .mulx _ _ _ | .powx _ _ _ | .nbm _ _ _ | .muld _ _ _ => .r2
  | .bldlx _ => .s
  | .cfg _ _ => .c
  | .rdcsr _ _ => .x

/-- A command word from its fields, RSV zero (R83). -/
def packWord (op : BitVec 8) (rd rs1 rs2 : RegIdx) (fn : BitVec 4) : CmdWord :=
  0#11 ++ fn ++ rs2 ++ rs1 ++ rd ++ op

/-- The command word of a command: fields it does not use are 0 (R85, R87). -/
def encodeCmd : Instr → CmdWord
  | .nop => packWord 0x00 0 0 0 0
  | .ldi rd _ => packWord 0x01 rd 0 0 0
  | .mov rd rs1 => packWord 0x02 rd rs1 0 0
  | .rdcsr rd csr => packWord 0x03 rd 0 0 csr
  | .cfg ksel rs1 => packWord 0x04 0 rs1 0 (0#2 ++ kselBits ksel)
  | .clrst => packWord 0x05 0 0 0 0
  | .add rd rs1 rs2 => packWord 0x10 rd rs1 rs2 0
  | .mul rd rs1 rs2 => packWord 0x11 rd rs1 rs2 0
  | .mull rd rs1 rs2 => packWord 0x12 rd rs1 rs2 0
  | .modr rd rs1 => packWord 0x13 rd rs1 0 0
  | .inv rd rs1 => packWord 0x14 rd rs1 0 0
  | .div rd rs1 rs2 => packWord 0x15 rd rs1 rs2 0
  | .pow rd rs1 rs2 => packWord 0x16 rd rs1 rs2 0
  | .bldlx rs1 => packWord 0x20 0 rs1 0 0
  | .logrd rd rs1 => packWord 0x21 rd rs1 0 0
  | .exprd rd rs1 => packWord 0x22 rd rs1 0 0
  | .mulx rd rs1 rs2 => packWord 0x23 rd rs1 rs2 0
  | .invx rd rs1 => packWord 0x24 rd rs1 0 0
  | .powx rd rs1 rs2 => packWord 0x25 rd rs1 rs2 0
  | .nbm rd rs1 rs2 => packWord 0x30 rd rs1 rs2 0
  | .bldrt => packWord 0x31 0 0 0 0
  | .rtrd rd rs1 => packWord 0x32 rd rs1 0 0
  | .msl8 rd rs1 => packWord 0x33 rd rs1 0 0
  | .modrb rd rs1 => packWord 0x34 rd rs1 0 0
  | .muld rd rs1 rs2 => packWord 0x35 rd rs1 rs2 0

/-- The data word sent with a command: LDI's operand. Every other command ignores DATA (R84); the
encoder sends 0 with it (DESIGN CHOICE, log 8; safe). -/
def encodeData : Instr → Word
  | .ldi _ imm => imm
  | .nop | .mov _ _ | .rdcsr _ _ | .cfg _ _ | .clrst => 0
  | .add _ _ _ | .mul _ _ _ | .mull _ _ _ | .modr _ _ | .inv _ _ | .div _ _ _ | .pow _ _ _ => 0
  | .bldlx _ | .logrd _ _ | .exprd _ _ | .mulx _ _ _ | .invx _ _ | .powx _ _ _ => 0
  | .nbm _ _ _ | .bldrt | .rtrd _ _ | .msl8 _ _ | .modrb _ _ | .muld _ _ _ => 0

/-- The words of a command: command word and data word (R80, R83). -/
def encode (i : Instr) : CmdWord × Word := (encodeCmd i, encodeData i)

/-- The command word in a number whose bits are numbered as spec/opcode_table.json numbers them: its
low 32 bits. Bits from nbits on are 0. -/
def tableCmd (nbits w : Nat) : CmdWord := BitVec.ofNat 32 (w % 2 ^ nbits)

/-- The data word in the same number: the 64 bits above the command word (log 8). -/
def tableData (nbits w : Nat) : Word := BitVec.ofNat 64 ((w % 2 ^ nbits) >>> 32)

/-- The command the decoder reads from a word of spec/opcode_table.json. -/
def decodeTableWord (nbits w : Nat) : Option Instr :=
  match decode (tableCmd nbits w) (tableData nbits w) with
  | .ok i => some i
  | .error _ => none

end Sys2Proof
end

