-- ==== Sys2Proof/Machine/Gf.lean ====
section
/-! DEFINITION. The arithmetic of GF(2)[x] and of the configured field, on exact natural numbers: bit i
of a number is the coefficient of x^i (R12, R13). Each loop is the pseudocode of its rule. -/

namespace Sys2Proof.Machine

/-- `v[hi:lo]` as an unsigned value (R12). -/
def bitsOf (v hi lo : Nat) : Nat := (v >>> lo) % 2 ^ (hi + 1 - lo)

/-- `deg(v)`, the index of the highest set bit, with `deg(0) = -1` (R13). -/
def deg (v : Nat) : Int := if v = 0 then -1 else (v.log2 : Int)

/-- `FULL_POLY = POLY | 2^k` (R16). -/
def fullPolyOf (k poly : Nat) : Nat := poly ||| 2 ^ k

/-- `HIGH_BIT = 2^(k-1)` (R16). -/
def highBitOf (k : Nat) : Nat := 2 ^ (k - 1)

/-- `FIELD_MASK = 2^k - 1` (R16). -/
def fieldMaskOf (k : Nat) : Nat := 2 ^ k - 1

/-- `POLY_BIT = 2^k` (R16). -/
def polyBitOf (k : Nat) : Nat := 2 ^ k

/-- The running power of R132's loop: `p` times x, reduced if HIGH_BIT was set. -/
def gfDouble (k poly p : Nat) : Nat :=
  if p &&& highBitOf k ≠ 0 then ((p <<< 1) ^^^ poly) &&& fieldMaskOf k else p <<< 1

/-- The loop of R132, with n turns to go, the cursor m at 2^i. -/
def gfMulLoop (k poly b : Nat) : Nat → Nat → Nat → Nat → Nat
  | 0, _, _, res => res
  | n + 1, i, p, res =>
    gfMulLoop k poly b n (i + 1) (gfDouble k poly p) (if b.testBit i then res ^^^ p else res)

/-- MUL's product (R132). The cursor m runs through 2^0 .. 2^(k-1): `while m <= FIELD_MASK` turns k
times. -/
def gfMul (k poly a b : Nat) : Nat := gfMulLoop k poly b k 0 a 0

/-- The loop of R133, with n turns to go, the cursor m at 2^i. -/
def clmulLoop (b : Nat) : Nat → Nat → Nat → Nat → Nat
  | 0, _, _, res => res
  | n + 1, i, p, res => clmulLoop b n (i + 1) (p <<< 1) (if b.testBit i then res ^^^ p else res)

/-- The carry-less product of `a` and the low n bits of `b`: MULL's loop with n turns (R133). -/
def clmulBits (n a b : Nat) : Nat := clmulLoop b n 0 a 0

/-- The loop of R134 with at most n turns to go. -/
def gfReduceLoop (k poly : Nat) : Nat → Nat → Nat
  | 0, x => x
  | n + 1, x =>
    if polyBitOf k ≤ x then gfReduceLoop k poly n (x ^^^ (fullPolyOf k poly <<< (deg x - k).toNat))
    else x

/-- MODR's remainder (R134). Each turn lowers deg(x), so `deg(x) - k + 1` turns end the loop (DEDUCED,
log 10; proved in Laws/Loops.lean). -/
def gfReduce (k poly x : Nat) : Nat := gfReduceLoop k poly (deg x - k + 1).toNat x

/-- The pairs (u, z) and (v, g) of the Euclidean loop (R135). -/
structure Euclid where
  u : Nat
  z : Nat
  v : Nat
  g : Nat
  deriving DecidableEq, Repr

/-- One turn of R135's loop past its two stops: swap if deg(u) < deg(v), then add the shifted (v, g). -/
def euclidTurn (e : Euclid) : Euclid :=
  let i := deg e.u - deg e.v
  let e' : Euclid := if i < 0 then { u := e.v, z := e.g, v := e.u, g := e.z } else e
  { e' with u := e'.u ^^^ (e'.v <<< i.natAbs), z := e'.z ^^^ (e'.g <<< i.natAbs) }

/-- R135's loop with at most n turns to go: z if u reaches 1, none if it does not. -/
def euclidLoop : Nat → Euclid → Option Nat
  | 0, e => if e.u = 1 then some e.z else none
  | n + 1, e =>
    if e.u = 1 then some e.z
    else if e.u = 0 then none
    else euclidLoop n (euclidTurn e)

/-- INV's inverse, none where R135 raises NOT_INVERTIBLE. R135: "the loop ends within 2k-1 iterations"
(DEDUCED, log 10; proved in Laws/Loops.lean). -/
def gfInv (k poly a : Nat) : Option Nat :=
  if a = 0 then some 0
  else if a = 1 then some 1
  else euclidLoop (2 * k - 1) { u := fullPolyOf k poly, z := 0, v := a, g := 1 }

/-- The scan of R137: bits i-1 down to 0 of e to go. -/
def gfPowLoop (k poly a e : Nat) : Nat → Nat → Nat
  | 0, r => r
  | i + 1, r =>
    let r2 := gfMul k poly r r
    gfPowLoop k poly a e i (if e.testBit i then gfMul k poly r2 a else r2)

/-- POW's power (R137). -/
def gfPow (k poly a b : Nat) : Nat :=
  let e := b % (2 ^ k - 1)
  if e = 0 then 1 else gfPowLoop k poly a e (deg e + 1).toNat 1

/-- NBROM, the constant table of R39: the entry at `(n << 8) | x` is clmul(x, n). -/
def nbRom (i : Nat) : Nat := clmulBits 4 (i % 256) (i / 256)

/-- `nb(x, n)`, the entry of NBROM at `(n << 8) | x` (R192). -/
def nibbleByte (x n : Nat) : Nat := nbRom ((n <<< 8) ||| x)

/-- `rmull(x, n)`, the low-nibble result (R192). -/
def rmull (x n : Nat) : Nat := nibbleByte x n

/-- `lmull(x, n)`, the high-nibble result (R192). -/
def lmull (x n : Nat) : Nat := nibbleByte x n <<< 4

end Sys2Proof.Machine
end

