-- ==== Sys2Proof/Machine/Ops.lean ====
section
/-! DEFINITION. The named operations over registers and table memories, the field descriptor, and the
completions of a command: with OK (R222), and with an error, which is the block's only trap (R223,
R226). The block has no return from a trap: the next command runs as if none had been (R227). -/

namespace Sys2Proof.Machine

/-- The outcome of a command or of a clock edge. -/
abbrev Result := Host.Outcome State Fault Refusal

/-- `X[r]` (R15). -/
def readReg (r : RegIdx) (s : State) : Word := s.x[r.toNat]'r.isLt

/-- `X[r] <- v`, all 64 bits (R15, R31). -/
def writeReg (r : RegIdx) (v : Word) (s : State) : State :=
  { s with x := s.x.set r.toNat v r.isLt }

/-- `TableRead(RT, i)` (R40, R61). -/
def readRt (i : BitVec 8) (s : State) : BitVec 16 := s.rt[i.toNat]'i.isLt

/-- `TableRead(LOG, i)`, the raw entry (R41, R61). -/
def readLog (i : BitVec 8) (s : State) : BitVec 9 := s.log[i.toNat]'i.isLt

/-- `TableRead(EXP, i)` (R42, R61). -/
def readExp (i : BitVec 10) (s : State) : BitVec 8 := s.exp[i.toNat]'i.isLt

/-- The order k that KSEL names (R7, R36). -/
def kselOrder : KSel → Nat
  | .k4 => 4
  | .k8 => 8
  | .k16 => 16
  | .k32 => 32

/-- The element width W_E(k) (R8). -/
def elementWidthOf : KSel → Nat
  | .k4 => 8
  | .k8 => 8
  | .k16 => 16
  | .k32 => 32

/-- The double width W_EE(k) = 2·W_E(k) (R8). -/
def doubleWidthOf (k : KSel) : Nat := 2 * elementWidthOf k

/-- The configured order k. -/
def order (s : State) : Nat := kselOrder s.ksel

/-- The configured compact polynomial as a number. -/
def polyNat (s : State) : Nat := s.poly.toNat

/-- MUL at the configured field (R132). -/
def fieldMul (s : State) (a b : Nat) : Nat := gfMul (order s) (polyNat s) a b

/-- Completion with OK and result v: LASTCC becomes OK, ERR stays, and the response (OK, v) waits
(R82, R222, R261). -/
def completeOk (v : Word) (s : State) : State :=
  { s with lastCC := .ok, phase := .respond, pending := some (.ok, v) }

/-- `X[rd] <- v; complete(v)` for a 64-bit result. -/
def completeWordToRd (rd : RegIdx) (v : Word) (s : State) : State :=
  completeOk v (writeReg rd v s)

/-- `complete_to_rd(v)`: `X[rd] <- zext_64(v); complete(v)` (R15). -/
def completeToRd (rd : RegIdx) (v : Nat) (s : State) : State :=
  completeWordToRd rd (BitVec.ofNat 64 v) s

/-- The error completion `raise c`, the block's only trap (R223, R226): nothing changes but LASTCC,
ERR and the port, where the response (c, 0) waits. -/
def completeError (c : CC) (s : State) : State :=
  { s with lastCC := c, err := true, phase := .respond, pending := some (c, 0) }

end Sys2Proof.Machine
end

