-- ==== Sys2Proof/Machine/Flags.lean ====
section
/-! DEFINITION. The status flags and the control and status registers as RDCSR reads them (R33 to R38). -/

namespace Sys2Proof.Machine

/-- The number of a completion code (R220). -/
def ccCode : CC → BitVec 4
  | .ok => 0
  | .illegal => 1
  | .nocfg => 2
  | .width => 3
  | .operand => 4
  | .table => 5
  | .notGenerator => 6
  | .notInvertible => 7

/-- STATUS: LASTCC in [3:0], ERR in [4], CFG_VALID in [8], LX_VALID in [9], RT_VALID in [10], every other
bit 0 (R34). -/
def statusWord (s : State) : Word :=
  0#53 ++ BitVec.ofBool s.rtValid ++ BitVec.ofBool s.lxValid ++ BitVec.ofBool s.cfgValid
    ++ 0#3 ++ BitVec.ofBool s.err ++ ccCode s.lastCC

/-- FIELD: KSEL in [1:0], every other bit 0 (R35). -/
def fieldWord (s : State) : Word := (kselBits s.ksel).setWidth 64

/-- The value of CSR number c, or none for the reserved numbers 9..15 (R33). ORDER and CSRs 4 to 7 are
derived from KSEL and POLY at each read (R36, R37). -/
def readCsr (c : CsrIdx) (s : State) : Option Word :=
  match c with
  | 0#4 => some (statusWord s)
  | 1#4 => some (fieldWord s)
  | 2#4 => some (BitVec.ofNat 64 (order s))
  | 3#4 => some (s.poly.setWidth 64)
  | 4#4 => some (BitVec.ofNat 64 (fullPolyOf (order s) (polyNat s)))
  | 5#4 => some (BitVec.ofNat 64 (highBitOf (order s)))
  | 6#4 => some (BitVec.ofNat 64 (fieldMaskOf (order s)))
  | 7#4 => some (BitVec.ofNat 64 (polyBitOf (order s)))
  | 8#4 => some (s.gen.setWidth 64)
  | _ => none

end Sys2Proof.Machine
end

