-- ==== Sys2Proof/Machine/Operands.lean ====
section
/-! DEFINITION. The operand forms and their checks, in the priority order of R224. A check answers the
completion code it raises, or none. -/

namespace Sys2Proof.Machine

/-- The source operand in register r as an unsigned number (R12). -/
def operand (r : RegIdx) (s : State) : Nat := (readReg r s).toNat

/-- The command needs a configured field: CFG_VALID = 1, or NOCFG (R130, R160, R190). -/
def needCfg (s : State) : Option CC := if s.cfgValid then none else some .nocfg

/-- The command's family needs one field order, or WIDTH (R160, R190). -/
def needOrder (k : KSel) (s : State) : Option CC := if s.ksel = k then none else some .width

/-- The operand v is below bound, or OPERAND: no bits are masked (R130, D12). -/
def needBelow (bound v : Nat) : Option CC := if v < bound then none else some .operand

/-- An element operand: below 2^k (R130). -/
def needElement (r : RegIdx) (s : State) : Option CC := needBelow (2 ^ order s) (operand r s)

/-- An EE operand: below 2^W_EE(k) (R130). -/
def needDouble (r : RegIdx) (s : State) : Option CC :=
  needBelow (2 ^ doubleWidthOf s.ksel) (operand r s)

/-- The command reads LOG or EXP: LX_VALID = 1, or TABLE (R160). -/
def needLx (s : State) : Option CC := if s.lxValid then none else some .table

/-- The command reads RT: RT_VALID = 1, or TABLE (R190). -/
def needRt (s : State) : Option CC := if s.rtValid then none else some .table

/-- The first error of a list of checks (R224). -/
def firstError : List (Option CC) → Option CC
  | [] => none
  | some c :: _ => some c
  | none :: rest => firstError rest

/-- A command with its checks: the first that raises ends it with an error completion of the state
before the command (R223, R224); with none, its outcome t. -/
def guarded (checks : List (Option CC)) (s t : State) : Result :=
  match firstError checks with
  | some c => .next (completeError c s)
  | none => .next t

end Sys2Proof.Machine
end

