-- ==== Sys2Proof/Machine/Control.lean ====
section
/-! DEFINITION. The control and configuration commands (40_control.md, R110 to R115). None of them needs
a configured field. -/

namespace Sys2Proof.Machine

/-- NOP (R110). -/
def execNop (s : State) : Result := .next (completeOk 0 s)

/-- LDI (R111): DATA unchanged, with no check against the field. -/
def execLdi (rd : RegIdx) (imm : Word) (s : State) : Result := .next (completeWordToRd rd imm s)

/-- MOV (R112). -/
def execMov (rd rs1 : RegIdx) (s : State) : Result := .next (completeWordToRd rd (readReg rs1 s) s)

/-- RDCSR (R113): the value before this command's own completion. A reserved number is ILLEGAL (R33,
R88 (c)); the decoder refuses such a word already (log 9). -/
def execRdcsr (rd : RegIdx) (csr : CsrIdx) (s : State) : Result :=
  match readCsr csr s with
  | some v => .next (completeWordToRd rd v s)
  | none => .next (completeError .illegal s)

/-- The field CFG constructs (R114): KSEL and POLY together, CFG_VALID set, the old tables' valid bits
and GEN cleared. The table memories keep their entries (log 4). -/
def configureField (ksel : KSel) (p : Nat) (s : State) : State :=
  { s with ksel := ksel, poly := BitVec.ofNat 32 p, cfgValid := true, lxValid := false,
           rtValid := false, gen := 0 }

/-- CFG (R114). -/
def execCfg (ksel : KSel) (rs1 : RegIdx) (s : State) : Result :=
  guarded [needBelow (2 ^ kselOrder ksel) (operand rs1 s)] s
    (completeOk 0 (configureField ksel (operand rs1 s) s))

/-- CLRST (R115). -/
def execClrst (s : State) : Result := .next (completeOk 0 { s with err := false })

end Sys2Proof.Machine
end

