-- ==== Sys2Proof/Machine/Tables.lean ====
section
/-! DEFINITION. The contents of the built tables: the generator check (R161), LOG and EXP (R162), RT
(R191). -/

namespace Sys2Proof.Machine

/-- The generator check of R161 with n steps to go and p = g^(255-n): it fails where p returns to 1
before the last step, and where the last p is not 1. -/
def generatorLoop (poly g : Nat) : Nat → Nat → Bool
  | 0, p => p == 1
  | n + 1, p =>
    let p' := gfMul 8 poly p g
    if p' = 1 ∧ n ≠ 0 then false else generatorLoop poly g n p'

/-- Whether g passes the generator check at k = 8 (R161). -/
def generatorCheck (poly g : Nat) : Bool := generatorLoop poly g 255 1

/-- The n powers p, p·g, p·g², … computed with MUL at k = 8. -/
def powersFrom (poly g : Nat) : Nat → Nat → List Nat
  | 0, _ => []
  | n + 1, p => p :: powersFrom poly g n (gfMul 8 poly p g)

/-- gp(0) .. gp(255) of R162. -/
def gpowers (poly g : Nat) : List Nat := powersFrom poly g 256 1

/-- The powers' number, n. -/
@[simp] theorem powersFrom_length (poly g n p : Nat) : (powersFrom poly g n p).length = n := by
  induction n generalizing p with
  | zero => rfl
  | succ n ih => simp [powersFrom, ih]

/-- Entry x of LOG (R162): the sentinel -256 at 0, and i at gp(i) for i in [0, 255). After a passed
check every non-zero x is such a power (DEDUCED, log 11). -/
def logEntry (powers : List Nat) (x : Nat) : BitVec 9 :=
  if x = 0 then BitVec.ofInt 9 (-256) else BitVec.ofNat 9 (powers.idxOf x)

/-- The LOG memory after a successful BLDLX with generator g (R162). -/
def logTable (poly g : Nat) : Vector (BitVec 9) 256 :=
  ⟨((List.range 256).map (logEntry ((gpowers poly g).take 255))).toArray, by simp⟩

/-- The EXP memory's entries in the order the source lays them out (R162): 512 zeros, g^0 .. g^255,
g^1 .. g^255 again, one zero. -/
def expEntries (poly g : Nat) : List Nat :=
  List.replicate 512 0 ++ gpowers poly g ++ (gpowers poly g).tail ++ [0]

/-- The layout fills the memory's 4·2^8 entries. -/
theorem expEntries_length (poly g : Nat) : (expEntries poly g).length = 1024 := by
  simp only [expEntries, gpowers, List.length_append, List.length_replicate, List.length_tail,
    powersFrom_length, List.length_singleton]

/-- The EXP memory after a successful BLDLX with generator g (R162). -/
def expTable (poly g : Nat) : Vector (BitVec 8) 1024 :=
  ⟨((expEntries poly g).map (BitVec.ofNat 8)).toArray,
    by rw [List.size_toArray, List.length_map, expEntries_length]⟩

/-- The RT memory after a successful BLDRT: `RT[i] = MODR(i << 16)` with k = 16 (R191). -/
def rtTable (poly : Nat) : Vector (BitVec 16) 256 :=
  ⟨((List.range 256).map fun i => BitVec.ofNat 16 (gfReduce 16 poly (i <<< 16))).toArray, by simp⟩

end Sys2Proof.Machine
end

