-- ==== Sys2Proof/Machine/Decomposition.lean ====
section
/-! DEFINITION. The nibble×byte ROM, the byte-wise reduction table and the 16-bit decomposition
multiplier (43_decomposition.md, R190 to R198), at k = 16 but for NBM. -/

namespace Sys2Proof.Machine

/-- NBM (R193): its operand checks alone, at every k and before any CFG. -/
def execNbm (rd rs1 rs2 : RegIdx) (s : State) : Result :=
  guarded [needBelow 256 (operand rs1 s), needBelow 16 (operand rs2 s)] s
    (completeToRd rd (nibbleByte (operand rs1 s) (operand rs2 s)) s)

/-- BLDRT past its checks (R194). -/
def buildRt (s : State) : State :=
  completeOk 0 { s with rt := rtTable (polyNat s), rtValid := true }

/-- BLDRT (R194). -/
def execBldrt (s : State) : Result := guarded [needCfg s, needOrder .k16 s] s (buildRt s)

/-- RTRD (R195). -/
def execRtrd (rd rs1 : RegIdx) (s : State) : Result :=
  guarded [needCfg s, needOrder .k16 s, needBelow 256 (operand rs1 s), needRt s] s
    (completeToRd rd (readRt (BitVec.ofNat 8 (operand rs1 s)) s).toNat s)

/-- `msl8(r)`, mod_shift_left_8, for r < 2^16 (R192). -/
def shiftReduce8 (s : State) (r : Nat) : Nat :=
  ((r <<< 8) &&& 0xFFFF) ^^^ (readRt (BitVec.ofNat 8 (r >>> 8)) s).toNat

/-- MSL8 (R196). -/
def execMsl8 (rd rs1 : RegIdx) (s : State) : Result :=
  guarded [needCfg s, needOrder .k16 s, needBelow (2 ^ 16) (operand rs1 s), needRt s] s
    (completeToRd rd (shiftReduce8 s (operand rs1 s)) s)

/-- R198's loop with bytes j-1 down to 0 of x to go. -/
def reduceBytewiseLoop (s : State) (x : Nat) : Nat → Nat → Nat
  | 0, r => r
  | j + 1, r => reduceBytewiseLoop s x j (shiftReduce8 s r ^^^ bitsOf x (8 * j + 7) (8 * j))

/-- MODRB's remainder: four bytes, the most significant first (R198). -/
def reduceBytewise (s : State) (x : Nat) : Nat := reduceBytewiseLoop s x 4 0

/-- MODRB (R198). -/
def execModrb (rd rs1 : RegIdx) (s : State) : Result :=
  guarded [needCfg s, needOrder .k16 s, needBelow (2 ^ 32) (operand rs1 s), needRt s] s
    (completeToRd rd (reduceBytewise s (operand rs1 s)) s)

/-- MULD's product (R197). -/
def mulDecomposed (s : State) (a b : Nat) : Nat :=
  let a3 := bitsOf a 15 12
  let a2 := bitsOf a 11 8
  let a1 := bitsOf a 7 4
  let a0 := bitsOf a 3 0
  let b1 := bitsOf b 15 8
  let b0 := bitsOf b 7 0
  let r := lmull b1 a3 ^^^ rmull b1 a2
  let r := shiftReduce8 s r ^^^ lmull b0 a3 ^^^ rmull b0 a2 ^^^ lmull b1 a1 ^^^ rmull b1 a0
  shiftReduce8 s r ^^^ lmull b0 a1 ^^^ rmull b0 a0

/-- MULD (R197). -/
def execMuld (rd rs1 rs2 : RegIdx) (s : State) : Result :=
  guarded [needCfg s, needOrder .k16 s, needBelow (2 ^ 16) (operand rs1 s),
      needBelow (2 ^ 16) (operand rs2 s), needRt s] s
    (completeToRd rd (mulDecomposed s (operand rs1 s) (operand rs2 s)) s)

end Sys2Proof.Machine
end

