-- ==== Sys2Proof/Machine/LogExp.lean ====
section
/-! DEFINITION. The discrete-log and extended-range exp tables (42_logexp.md, R160 to R168), at k = 8. -/

namespace Sys2Proof.Machine

/-- The exp-table centre BIAS = 2·2^8 (R9). -/
def bias : Int := 512

/-- BLDLX past its checks (R163): with a passed generator check the tables, LX_VALID and GEN; else the
error completion NOT_GENERATOR, which leaves LX_VALID = 0 and GEN = 0 (R223). The tables then keep
their entries, which nothing can observe (log 4). -/
def buildLogExp (g : Nat) (s : State) : State :=
  if generatorCheck (polyNat s) g then
    completeOk 0 { s with log := logTable (polyNat s) g, exp := expTable (polyNat s) g,
                          lxValid := true, gen := BitVec.ofNat 8 g }
  else completeError .notGenerator { s with lxValid := false, gen := 0 }

/-- BLDLX (R163). -/
def execBldlx (rs1 : RegIdx) (s : State) : Result :=
  guarded [needCfg s, needOrder .k8 s, needBelow 256 (operand rs1 s)] s
    (buildLogExp (operand rs1 s) s)

/-- The signed log of a byte: entry a of LOG, two's complement (R41). -/
def logOf (s : State) (a : Nat) : Int := (readLog (BitVec.ofNat 8 a) s).toInt

/-- The EXP entry at a computed index. R169: every index lies in [0, 1023]. -/
def expAt (s : State) (idx : Int) : Nat := (readExp (BitVec.ofInt 10 idx) s).toNat

/-- LOGRD (R164): the signed entry, sign-extended. -/
def execLogrd (rd rs1 : RegIdx) (s : State) : Result :=
  guarded [needCfg s, needOrder .k8 s, needBelow 256 (operand rs1 s), needLx s] s
    (completeWordToRd rd ((readLog (BitVec.ofNat 8 (operand rs1 s)) s).signExtend 64) s)

/-- EXPRD (R165): the index is read directly, with no bias. -/
def execExprd (rd rs1 : RegIdx) (s : State) : Result :=
  guarded [needCfg s, needOrder .k8 s, needBelow 1024 (operand rs1 s), needLx s] s
    (completeToRd rd (expAt s (operand rs1 s)) s)

/-- MULX's index: BIAS + LOG[a] + LOG[b] (R166). -/
def mulxIndex (s : State) (a b : Nat) : Int := bias + logOf s a + logOf s b

/-- INVX's index: BIAS + 255 - LOG[a] (R167). -/
def invxIndex (s : State) (a : Nat) : Int := bias + 255 - logOf s a

/-- POWX's index: BIAS + trem(LOG[a]·b, 255), the truncated remainder (R14, R168, C5). -/
def powxIndex (s : State) (a b : Nat) : Int := bias + Int.tmod (logOf s a * b) 255

/-- MULX (R166). -/
def execMulx (rd rs1 rs2 : RegIdx) (s : State) : Result :=
  guarded [needCfg s, needOrder .k8 s, needBelow 256 (operand rs1 s), needBelow 256 (operand rs2 s),
      needLx s] s
    (completeToRd rd (expAt s (mulxIndex s (operand rs1 s) (operand rs2 s))) s)

/-- INVX (R167). -/
def execInvx (rd rs1 : RegIdx) (s : State) : Result :=
  guarded [needCfg s, needOrder .k8 s, needBelow 256 (operand rs1 s), needLx s] s
    (completeToRd rd (expAt s (invxIndex s (operand rs1 s))) s)

/-- POWX (R168). -/
def execPowx (rd rs1 rs2 : RegIdx) (s : State) : Result :=
  guarded [needCfg s, needOrder .k8 s, needBelow 256 (operand rs1 s),
      needBelow (2 ^ 16) (operand rs2 s), needLx s] s
    (completeToRd rd (expAt s (powxIndex s (operand rs1 s) (operand rs2 s))) s)

end Sys2Proof.Machine
end

