-- ==== Sys2Proof/Machine/Reference.lean ====
section
/-! DEFINITION. The reference field arithmetic (41_reference_arith.md, R130 to R137), at every order k. -/

namespace Sys2Proof.Machine

/-- ADD, and SUB (R131). -/
def execAdd (rd rs1 rs2 : RegIdx) (s : State) : Result :=
  guarded [needCfg s, needElement rs1 s, needElement rs2 s] s
    (completeToRd rd (operand rs1 s ^^^ operand rs2 s) s)

/-- MUL (R132). -/
def execMul (rd rs1 rs2 : RegIdx) (s : State) : Result :=
  guarded [needCfg s, needElement rs1 s, needElement rs2 s] s
    (completeToRd rd (fieldMul s (operand rs1 s) (operand rs2 s)) s)

/-- MULL (R133): the loop of k turns. -/
def execMull (rd rs1 rs2 : RegIdx) (s : State) : Result :=
  guarded [needCfg s, needElement rs1 s, needElement rs2 s] s
    (completeToRd rd (clmulBits (order s) (operand rs1 s) (operand rs2 s)) s)

/-- MODR (R134). -/
def execModr (rd rs1 : RegIdx) (s : State) : Result :=
  guarded [needCfg s, needDouble rs1 s] s
    (completeToRd rd (gfReduce (order s) (polyNat s) (operand rs1 s)) s)

/-- The completion of INV and DIV with the loop's answer: NOT_INVERTIBLE where u reached 0 (R135, R136). -/
def completeInverse (rd : RegIdx) (r : Option Nat) (s : State) : State :=
  match r with
  | some v => completeToRd rd v s
  | none => completeError .notInvertible s

/-- INV (R135). -/
def execInv (rd rs1 : RegIdx) (s : State) : Result :=
  guarded [needCfg s, needElement rs1 s] s
    (completeInverse rd (gfInv (order s) (polyNat s) (operand rs1 s)) s)

/-- DIV (R136): `MUL(a, INV(b))`. -/
def execDiv (rd rs1 rs2 : RegIdx) (s : State) : Result :=
  guarded [needCfg s, needElement rs1 s, needElement rs2 s] s
    (completeInverse rd
      ((gfInv (order s) (polyNat s) (operand rs2 s)).map (fieldMul s (operand rs1 s))) s)

/-- POW (R137). -/
def execPow (rd rs1 rs2 : RegIdx) (s : State) : Result :=
  guarded [needCfg s, needElement rs1 s, needDouble rs2 s] s
    (completeToRd rd (gfPow (order s) (polyNat s) (operand rs1 s) (operand rs2 s)) s)

end Sys2Proof.Machine
end

