-- ==== Sys2Proof/Machine/Dispatch.lean ====
section
/-! DEFINITION. The meaning of each command, one arm a constructor of Instr. -/

namespace Sys2Proof.Machine

def exec (i : Instr) (s : State) : Host.Outcome State Fault Refusal :=
  match i with
  | .nop => Sys2Proof.Machine.execNop s
  | .ldi rd imm => Sys2Proof.Machine.execLdi rd imm s
  | .mov rd rs1 => Sys2Proof.Machine.execMov rd rs1 s
  | .rdcsr rd csr => Sys2Proof.Machine.execRdcsr rd csr s
  | .cfg ksel rs1 => Sys2Proof.Machine.execCfg ksel rs1 s
  | .clrst => Sys2Proof.Machine.execClrst s
  | .add rd rs1 rs2 => Sys2Proof.Machine.execAdd rd rs1 rs2 s
  | .mul rd rs1 rs2 => Sys2Proof.Machine.execMul rd rs1 rs2 s
  | .mull rd rs1 rs2 => Sys2Proof.Machine.execMull rd rs1 rs2 s
  | .modr rd rs1 => Sys2Proof.Machine.execModr rd rs1 s
  | .inv rd rs1 => Sys2Proof.Machine.execInv rd rs1 s
  | .div rd rs1 rs2 => Sys2Proof.Machine.execDiv rd rs1 rs2 s
  | .pow rd rs1 rs2 => Sys2Proof.Machine.execPow rd rs1 rs2 s
  | .bldlx rs1 => Sys2Proof.Machine.execBldlx rs1 s
  | .logrd rd rs1 => Sys2Proof.Machine.execLogrd rd rs1 s
  | .exprd rd rs1 => Sys2Proof.Machine.execExprd rd rs1 s
  | .mulx rd rs1 rs2 => Sys2Proof.Machine.execMulx rd rs1 rs2 s
  | .invx rd rs1 => Sys2Proof.Machine.execInvx rd rs1 s
  | .powx rd rs1 rs2 => Sys2Proof.Machine.execPowx rd rs1 rs2 s
  | .nbm rd rs1 rs2 => Sys2Proof.Machine.execNbm rd rs1 rs2 s
  | .bldrt => Sys2Proof.Machine.execBldrt s
  | .rtrd rd rs1 => Sys2Proof.Machine.execRtrd rd rs1 s
  | .msl8 rd rs1 => Sys2Proof.Machine.execMsl8 rd rs1 s
  | .modrb rd rs1 => Sys2Proof.Machine.execModrb rd rs1 s
  | .muld rd rs1 rs2 => Sys2Proof.Machine.execMuld rd rs1 rs2 s

end Sys2Proof.Machine
end

