-- ==== Sys2Proof/Machine/Port.lean ====
section
/-! DEFINITION. The host port (R80 to R82): its output signals, its transfers, reset (R251 to R253), and
what one rising edge of clk does. -/

namespace Sys2Proof.Machine

/-- The block's output signals (R81). -/
structure Outputs where
  cmdReady : Bool
  rspValid : Bool
  /-- rsp_cc and rsp_result while rsp_valid is 1; while it is 0 the spec gives them no value (log 12). -/
  response : Option (BitVec 4 × Word)
  deriving DecidableEq, Repr

/-- cmd_ready: 1 exactly in phase IDLE, and 0 while rst is 1 (R81, R251). -/
def cmdReady (p : Pins) (s : State) : Bool := !p.rst && s.phase == .idle

/-- rsp_valid: 1 exactly in phase RESPOND, and 0 while rst is 1 (R81, R251). -/
def rspValid (p : Pins) (s : State) : Bool := !p.rst && s.phase == .respond

/-- The output signals at the input pins p (R81, R82). -/
def outputs (p : Pins) (s : State) : Outputs :=
  { cmdReady := cmdReady p s
    rspValid := rspValid p s
    response := if rspValid p s then s.pending.map (fun r => (ccCode r.1, r.2)) else none }

/-- A command transfers: cmd_valid and cmd_ready are both 1 at the edge (R81). -/
def commandTransfers (p : Pins) (s : State) : Bool := p.cmdValid && cmdReady p s

/-- A response transfers: rsp_valid and rsp_ready are both 1 at the edge (R81). -/
def responseTransfers (p : Pins) (s : State) : Bool := rspValid p s && p.rspReady

/-- The pins at the next rising edge: the first sample to come, or none driven (log 1). -/
def edgePins (s : State) : Pins := s.inputs.headD .quiet

/-- The edge's sample is past. -/
def passEdge (s : State) : State := { s with inputs := s.inputs.tail }

/-- The edge with rst = 1 (R251, R253): every state element takes its reset value, and the command in
flight leaves no response. The host's coming samples and the count of accepted commands are no elements
of the block and go on (log 13). -/
def resetEdge (s : State) : State := { State.reset with inputs := s.inputs, accepted := s.accepted }

/-- The state as far as a latency may depend on it: without the host's samples to come, which no block
can know, and without table contents whose valid bit is 0, which are unobservable (R40 to R42; log 2). -/
def latencyView (s : State) : State :=
  { s with rt := if s.rtValid then s.rt else State.reset.rt
           log := if s.lxValid then s.log else State.reset.log
           exp := if s.lxValid then s.exp else State.reset.exp
           inputs := [] }

/-- A command transfer: the block samples cmd_word and cmd_data and is BUSY (R82), for a free number of
edges that may depend on the command and its operands (R262; log 2). -/
def acceptCommand (p : Pins) (s : State) : State :=
  { s with phase := .busy, cmdWord := p.cmdWord, cmdData := p.cmdData,
           busyLeft := Config.latency p.cmdWord p.cmdData (latencyView s),
           accepted := s.accepted + 1 }

/-- An edge in BUSY that does not complete the command: no effect of it is visible (R261). -/
def waitBusy (s : State) : State := { s with busyLeft := s.busyLeft - 1 }

/-- The response transfer: the phase becomes IDLE, with no pending response (R44, R82). -/
def takeResponse (s : State) : State := { s with phase := .idle, pending := none }

/-- The sampled command runs: an illegal word completes with ILLEGAL and nothing else (R88, R223). -/
def runSampled (s : State) : Result :=
  match decode s.cmdWord s.cmdData with
  | .ok i => exec i s
  | .error _ => .next (completeError .illegal s)

/-- One rising edge of clk with the input pins p (R81, R82, R251). -/
def clockEdge (p : Pins) (s : State) : Result :=
  if p.rst then .next (resetEdge s)
  else
    match s.phase with
    | .idle => .next (if commandTransfers p s then acceptCommand p s else s)
    | .busy => if s.busyLeft = 0 then runSampled s else .next (waitBusy s)
    | .respond => .next (if responseTransfers p s then takeResponse s else s)

/-- The state in which the command words c and d have been sampled and the next edge completes them. -/
def sampleCommand (c : CmdWord) (d : Word) (s : State) : State :=
  { s with phase := .busy, pending := none, busyLeft := 0, cmdWord := c, cmdData := d, inputs := [] }

end Sys2Proof.Machine
end

