-- ==== Sys2Proof/Machine/Step.lean ====
section
/-! DEFINITION. One step of the machine: one rising edge of clk (R81, R82). -/

namespace Sys2Proof.Machine

/-- One rising edge of clk, with the pins the host drives at it (log 1). -/
def step (s : State) : Host.Outcome State Fault Refusal := clockEdge (edgePins s) (passEdge s)

/-- s with the command of spec/opcode_table.json's word w sampled by the port, about to complete: the
very next step runs it. The block fetches nothing (R250): the port holds the command it samples (R82),
so this sets the phase, the sampled words, the end of the latency, no pending response, and no host
samples, so that rst is 0 at the edge (log 7). -/
def State.withFetchWord (s : State) (nbits w : Nat) : State :=
  sampleCommand (tableCmd nbits w) (tableData nbits w) s

end Sys2Proof.Machine
end

