-- ==== Sys2Proof/Safety.lean ====
section
/-! DEFINITION. The terms the statements use: the responses a command can end in, which commands need
what (R221, R224), polynomials as the spec defines them (R13), the invariant of every step, and which
states differ only in what no command can observe (R40 to R42). -/

namespace Sys2Proof.Machine

/-! ### Responses -/

/-- s with LASTCC OK and the response (OK, v) waiting, ERR as it was (R222). -/
def okResponse (v : Word) (s : State) : State :=
  { s with lastCC := .ok, phase := .respond, pending := some (.ok, v) }

/-- s with v in X[rd], LASTCC OK and the response (OK, v) waiting; nothing else changed (R15, R222). -/
def okToRd (rd : RegIdx) (v : Word) (s : State) : State :=
  { s with x := s.x.set rd.toNat v rd.isLt, lastCC := .ok, phase := .respond,
           pending := some (.ok, v) }

/-- s with LASTCC c, ERR 1 and the response (c, 0) waiting; nothing else changed (R223). -/
def errorResponse (c : CC) (s : State) : State :=
  { s with lastCC := c, err := true, phase := .respond, pending := some (c, 0) }

/-! ### What each command needs -/

/-- The register a command writes when it completes with OK; none for "a command that is not listed as
writing rd" (R31). -/
def destination : Instr → Option RegIdx
  | .nop | .cfg _ _ | .clrst | .bldlx _ | .bldrt => none
  | .ldi rd _ | .mov rd _ | .rdcsr rd _ => some rd
  | .add rd _ _ | .mul rd _ _ | .mull rd _ _ | .modr rd _ | .inv rd _ | .div rd _ _ => some rd
  | .pow rd _ _ | .logrd rd _ | .exprd rd _ | .mulx rd _ _ | .invx rd _ | .powx rd _ _ => some rd
  | .nbm rd _ _ | .rtrd rd _ | .msl8 rd _ | .modrb rd _ | .muld rd _ _ => some rd

/-- Commands that need a configured field: "every command except NOP, LDI, MOV, RDCSR, CFG, CLRST and
NBM" (R224). -/
def needsField : Instr → Bool
  | .nop | .ldi _ _ | .mov _ _ | .rdcsr _ _ | .cfg _ _ | .clrst | .nbm _ _ _ => false
  | .add _ _ _ | .mul _ _ _ | .mull _ _ _ | .modr _ _ | .inv _ _ | .div _ _ _ | .pow _ _ _ => true
  | .bldlx _ | .logrd _ _ | .exprd _ _ | .mulx _ _ _ | .invx _ _ | .powx _ _ _ => true
  | .bldrt | .rtrd _ _ | .msl8 _ _ | .modrb _ _ | .muld _ _ _ => true

/-- The one field order a command's family needs, if any (R160, R190, R220). -/
def familyOrder : Instr → Option KSel
  | .nop | .ldi _ _ | .mov _ _ | .rdcsr _ _ | .cfg _ _ | .clrst | .nbm _ _ _ => none
  | .add _ _ _ | .mul _ _ _ | .mull _ _ _ | .modr _ _ | .inv _ _ | .div _ _ _ | .pow _ _ _ => none
  | .bldlx _ | .logrd _ _ | .exprd _ _ | .mulx _ _ _ | .invx _ _ | .powx _ _ _ => some .k8
  | .bldrt | .rtrd _ _ | .msl8 _ _ | .modrb _ _ | .muld _ _ _ => some .k16

/-- Every source operand of the command is in the range its rule gives (R114, R130, R160, R163 to
R168, R190, R193 to R198). -/
def operandsInRange (s : State) : Instr → Bool
  | .nop | .ldi _ _ | .mov _ _ | .rdcsr _ _ | .clrst | .bldrt => true
  | .cfg ksel rs1 => operand rs1 s < 2 ^ kselOrder ksel
  | .add _ rs1 rs2 | .mul _ rs1 rs2 | .mull _ rs1 rs2 | .div _ rs1 rs2 =>
    operand rs1 s < 2 ^ order s && operand rs2 s < 2 ^ order s
  | .modr _ rs1 => operand rs1 s < 2 ^ doubleWidthOf s.ksel
  | .inv _ rs1 => operand rs1 s < 2 ^ order s
  | .pow _ rs1 rs2 => operand rs1 s < 2 ^ order s && operand rs2 s < 2 ^ doubleWidthOf s.ksel
  | .bldlx rs1 | .logrd _ rs1 | .invx _ rs1 | .rtrd _ rs1 => operand rs1 s < 256
  | .exprd _ rs1 => operand rs1 s < 1024
  | .mulx _ rs1 rs2 => operand rs1 s < 256 && operand rs2 s < 256
  | .powx _ rs1 rs2 => operand rs1 s < 256 && operand rs2 s < 65536
  | .nbm _ rs1 rs2 => operand rs1 s < 256 && operand rs2 s < 16
  | .msl8 _ rs1 => operand rs1 s < 65536
  | .modrb _ rs1 => operand rs1 s < 4294967296
  | .muld _ rs1 rs2 => operand rs1 s < 65536 && operand rs2 s < 65536

/-- The valid bit of the table the command reads is 1, if it reads RT, LOG or EXP (R160, R190). -/
def tablesReady (s : State) : Instr → Bool
  | .nop | .ldi _ _ | .mov _ _ | .rdcsr _ _ | .cfg _ _ | .clrst | .nbm _ _ _ => true
  | .add _ _ _ | .mul _ _ _ | .mull _ _ _ | .modr _ _ | .inv _ _ | .div _ _ _ | .pow _ _ _ => true
  | .bldlx _ | .bldrt => true
  | .logrd _ _ | .exprd _ _ | .mulx _ _ _ | .invx _ _ | .powx _ _ _ => s.lxValid
  | .rtrd _ _ | .msl8 _ _ | .modrb _ _ | .muld _ _ _ => s.rtValid

/-- The codes but OK and ILLEGAL that R221 lists for a command. -/
def listedCodes : Instr → List CC
  | .nop | .ldi _ _ | .mov _ _ | .rdcsr _ _ | .clrst => []
  | .cfg _ _ | .nbm _ _ _ => [.operand]
  | .add _ _ _ | .mul _ _ _ | .mull _ _ _ | .modr _ _ | .pow _ _ _ => [.nocfg, .operand]
  | .inv _ _ | .div _ _ _ => [.nocfg, .operand, .notInvertible]
  | .bldlx _ => [.nocfg, .width, .operand, .notGenerator]
  | .logrd _ _ | .exprd _ _ | .mulx _ _ _ | .invx _ _ | .powx _ _ _ =>
    [.nocfg, .width, .operand, .table]
  | .bldrt => [.nocfg, .width]
  | .rtrd _ _ | .msl8 _ _ | .modrb _ _ | .muld _ _ _ => [.nocfg, .width, .operand, .table]

/-! ### The opcode table -/

/-- The rows of R86 as (OP, mask), in the order of opcode_table.json. -/
def opcodeRows : List (BitVec 8 × CmdWord) :=
  [(0x00, 0xFFFFFFFF), (0x01, 0xFFFFF8FF), (0x02, 0xFFFFC0FF), (0x03, 0xFFE1F8FF),
   (0x04, 0xFFF9C7FF), (0x05, 0xFFFFFFFF)] ++
  [(0x10, 0xFFFE00FF), (0x11, 0xFFFE00FF), (0x12, 0xFFFE00FF), (0x13, 0xFFFFC0FF),
   (0x14, 0xFFFFC0FF), (0x15, 0xFFFE00FF), (0x16, 0xFFFE00FF)] ++
  [(0x20, 0xFFFFC7FF), (0x21, 0xFFFFC0FF), (0x22, 0xFFFFC0FF), (0x23, 0xFFFE00FF),
   (0x24, 0xFFFFC0FF), (0x25, 0xFFFE00FF)] ++
  [(0x30, 0xFFFE00FF), (0x31, 0xFFFFFFFF), (0x32, 0xFFFFC0FF), (0x33, 0xFFFFC0FF),
   (0x34, 0xFFFFC0FF), (0x35, 0xFFFE00FF)]

/-! ### Polynomials over GF(2) (R13) -/

/-- `clmul(a, b)`: "the XOR of `a << i` over every i with `b[i] = 1`" (R13). -/
def clmul (a b : Nat) : Nat :=
  ((List.range (b.log2 + 1)).filter b.testBit).foldl (fun r i => r ^^^ (a <<< i)) 0

/-- r is `pmod(x, f)`: deg(r) < deg(f) and `x ^ r` is a carry-less multiple of f (R13). -/
def IsRemainder (x f r : Nat) : Prop := deg r < deg f ∧ ∃ q, x ^^^ r = clmul q f

/-- FULL_POLY of the configured field (R16). -/
def fullPoly (s : State) : Nat := fullPolyOf (order s) (polyNat s)

/-- a·a·…·a, e factors, with MUL; 1 for e = 0. -/
def mulPower (k poly a : Nat) : Nat → Nat
  | 0 => 1
  | e + 1 => gfMul k poly (mulPower k poly a e) a

/-- "The multiplicative order of g is exactly 255" in the words of R161: g^i ≠ 1 for 1 ≤ i ≤ 254 and
g^255 = 1, the powers computed with MUL at k = 8. -/
def IsGenerator (poly g : Nat) : Prop :=
  (∀ i, 1 ≤ i → i ≤ 254 → mulPower 8 poly g i ≠ 1) ∧ mulPower 8 poly g 255 = 1

/-! ### The invariant -/

/-- LX_VALID is 1 only with the tables of R162 for the current POLY and GEN, and GEN is 0 while it is 0
(R34, R38, R43). -/
def LxConsistent (s : State) : Prop :=
  if s.lxValid then
    s.cfgValid = true ∧ s.ksel = .k8 ∧ generatorCheck (polyNat s) s.gen.toNat = true ∧
      s.log = logTable (polyNat s) s.gen.toNat ∧ s.exp = expTable (polyNat s) s.gen.toNat
  else s.gen = 0

/-- RT_VALID is 1 only with the table of R191 for the current POLY (R34, R43). -/
def RtConsistent (s : State) : Prop :=
  s.rtValid = true → s.cfgValid = true ∧ s.ksel = .k16 ∧ s.rt = rtTable (polyNat s)

/-- A response is pending exactly in RESPOND, with the code in LASTCC, and with result 0 for every code
but OK (R44, R220). -/
def PortConsistent (s : State) : Prop :=
  (s.phase = .respond ↔ s.pending.isSome) ∧
    ∀ c v, s.pending = some (c, v) → c = s.lastCC ∧ (c ≠ .ok → v = 0)

/-- What holds in every state the block can reach. -/
structure BlockInv (s : State) : Prop where
  /-- POLY < 2^k (R36) -/
  polyBelow : polyNat s < 2 ^ order s
  /-- before a CFG completes, the field registers hold their reset values (R35, R36) -/
  unconfigured : s.cfgValid = false → s.ksel = .k4 ∧ s.poly = 0
  lx : LxConsistent s
  rt : RtConsistent s
  port : PortConsistent s
  /-- ERR is set by every code but OK (R34) -/
  errSticky : s.lastCC ≠ .ok → s.err = true

/-! ### What no command can observe -/

/-- t is s but for table contents whose valid bit is 0 (R40 to R42). -/
def SameButHidden (s t : State) : Prop :=
  t = { s with rt := t.rt, log := t.log, exp := t.exp } ∧
    (s.rtValid = true → t.rt = s.rt) ∧ (s.lxValid = true → t.log = s.log ∧ t.exp = s.exp)

/-! ### Clock edges -/

/-- The host drives rst = 0 at the next n edges. -/
def NoResetFor (n : Nat) (s : State) : Prop := ∀ p ∈ s.inputs.take n, p.rst = false

end Sys2Proof.Machine
end

