-- ==== Sys2Proof/Certificates/Slice0/Obligations.lean ====
section
/-! DEFINITION. The statements about gf_multiplier, one definition each. They use the terms of
Sys2Proof/Safety.lean; `operand r s` is register r as a number, `.next` the next state. -/

open Sys2Proof Sys2Proof.Machine Host

/-! ### Encoding -/

/-- Decoding the words of a well-formed command gives the command back, with every operand. -/
def Obligations.DecodeOfEncode : Prop :=
  ∀ i : Instr, i.wellFormed = true → decode (encode i).1 (encode i).2 = .ok i

/-- A word that decodes is the encoding of the command it decodes to, bit for bit, and that command is
well formed; the data word is kept by LDI alone (the 0 for the others is the model's choice, log 8). -/
def Obligations.DecodedWordsEncodeBack : Prop :=
  ∀ (c : CmdWord) (d : Word) (i : Instr), decode c d = .ok i →
    i.wellFormed = true ∧ encodeCmd i = c ∧ encodeData i = (if fieldOp c = 0x01 then d else 0)

/-- R88: a word is illegal exactly in the cases (a), (b) and (c); a word that is not decodes to exactly
one row of R86; an illegal command has the error effects alone. -/
def Obligations.IllegalWordsAndTotalDecoder : Prop :=
  ∀ (c : CmdWord) (d : Word),
    let illegal : Prop :=
      (∀ row ∈ opcodeRows, row.1 ≠ fieldOp c) ∨
      (∃ row ∈ opcodeRows, row.1 = fieldOp c ∧ c &&& row.2 ≠ row.1.setWidth 32) ∨
      (fieldOp c = 0x03 ∧ 9 ≤ fieldFn c)
    ((∃ e, decode c d = .error e) ↔ illegal) ∧
    (¬ illegal → ∃ i, decode c d = .ok i ∧
      ∃! row, row ∈ opcodeRows ∧ row.1 = opcodeOf i ∧ c &&& row.2 = row.1.setWidth 32) ∧
    (illegal → ∀ s : State, s.phase = .busy → s.busyLeft = 0 → (edgePins s).rst = false →
      s.cmdWord = c → s.cmdData = d → step s = .next (errorResponse .illegal (passEdge s)))

/-- A few words written out by hand from R83 and R85 decode to what they stand for. -/
def Obligations.SampleWordsDecode : Prop :=
  decode 0b00000000000_0000_010_001_011_00010001#32 0 = .ok (.mul 3 1 2) ∧
  decode 0b00000000000_0100_000_000_100_00000011#32 0 = .ok (.rdcsr 4 4) ∧
  decode 0b00000000000_0001_000_001_000_00000100#32 0 = .ok (.cfg .k8 1) ∧
  decode 0b00000000000_0000_000_001_000_00100000#32 0 = .ok (.bldlx 1) ∧
  decode 0b00000000000_0000_011_010_100_00110101#32 0 = .ok (.muld 4 2 3) ∧
  decode 0b00000000000_0000_000_000_001_00000001#32 0x53 = .ok (.ldi 1 0x53) ∧
  decode 0b00000000000_1001_000_000_100_00000011#32 0 = .error .reservedCsr

/-- The data word matters to LDI alone, which carries all 64 bits of it (R84). -/
def Obligations.OnlyLdiReadsData : Prop :=
  ∀ (c : CmdWord) (d d' : Word),
    (fieldOp c ≠ 0x01 → decode c d = decode c d') ∧
    (fieldOp c = 0x01 → ∀ i, decode c d = .ok i → i = .ldi (fieldRd c) d)

/-- The edge that completes a sampled word runs the command it decodes to, past that edge's pin sample;
after withFetchWord, the model's stand-in for the transfer (log 7), the very next step does so. -/
def Obligations.StepRunsDecodedCommand : Prop :=
  (∀ (s : State) (i : Instr), s.phase = .busy → s.busyLeft = 0 → (edgePins s).rst = false →
    decode s.cmdWord s.cmdData = .ok i → step s = exec i (passEdge s)) ∧
  (∀ (s : State) (nbits w : Nat) (i : Instr), decodeTableWord nbits w = some i →
    step (s.withFetchWord nbits w) = exec i (s.withFetchWord nbits w))

/-! ### Reset and the port -/

/-- R252: the values of State.reset, as fields and as RDCSR reads them, and the constant NBROM; no claim
about RT, LOG and EXP. -/
def Obligations.ResetStateValues : Prop :=
  let s := State.reset
  (∀ r : RegIdx, readReg r s = 0) ∧ s.ksel = .k4 ∧ s.poly = 0 ∧ s.gen = 0 ∧ s.lastCC = .ok ∧
  s.err = false ∧ s.cfgValid = false ∧ s.lxValid = false ∧ s.rtValid = false ∧
  s.phase = .idle ∧ s.pending = none ∧
  readCsr 0 s = some 0 ∧ readCsr 1 s = some 0 ∧ readCsr 2 s = some 4 ∧ readCsr 3 s = some 0 ∧
  readCsr 4 s = some 0x10 ∧ readCsr 5 s = some 0x8 ∧ readCsr 6 s = some 0xF ∧
  readCsr 7 s = some 0x10 ∧ readCsr 8 s = some 0 ∧
  ∀ n x, n < 16 → x < 256 → nbRom ((n <<< 8) ||| x) = clmul x n

/-- An edge with rst = 1 gives the reset values whatever the block was doing, with no response left and
none offered while rst is 1 (R251, R253); no claim about RT, LOG and EXP. -/
def Obligations.ResetEdgeAbandonsTheCommand : Prop :=
  ∀ s : State, (edgePins s).rst = true →
    (outputs (edgePins s) s).cmdReady = false ∧ (outputs (edgePins s) s).rspValid = false ∧
    ∃ t, step s = .next t ∧ (∀ r : RegIdx, readReg r t = 0) ∧ t.ksel = .k4 ∧ t.poly = 0 ∧
      t.gen = 0 ∧ t.lastCC = .ok ∧ t.err = false ∧ t.cfgValid = false ∧ t.lxValid = false ∧
      t.rtValid = false ∧ t.phase = .idle ∧ t.pending = none

/-- In IDLE with rst = 0, a command offered is sampled and the phase becomes BUSY; with none offered,
nothing changes (R82). The wait n, the counter and the kept words are the model's (log 2 and 6); that
the first edge after reset can transfer is its reading (log 5). -/
def Obligations.CommandTransferSamplesTheWords : Prop :=
  ∀ s : State, s.phase = .idle → (edgePins s).rst = false →
    ((edgePins s).cmdValid = true → ∃ n, step s = .next { passEdge s with
      phase := .busy, cmdWord := (edgePins s).cmdWord, cmdData := (edgePins s).cmdData,
      busyLeft := n, accepted := s.accepted + 1 }) ∧
    ((edgePins s).cmdValid = false → step s = .next (passEdge s))

/-- A block in BUSY with n edges to wait completes its command at the edge after them, whatever the
host's other pins do, with the effect that command has in one edge (R82, R261, R262). The counter of
those edges is the model's field (log 2), and edges past the list of samples are quiet by the model's
choice (log 1). -/
def Obligations.BusyCompletesAfterItsLatency : Prop :=
  ∀ (n : Nat) (s : State), s.phase = .busy → s.busyLeft = n → NoResetFor (n + 1) s →
    core.run (n + 1) s =
      runSampled { s with busyLeft := 0, inputs := s.inputs.drop (n + 1) }

/-- From the edge at which a command is offered in IDLE, a response waits after finitely many edges with
rst = 0 (R80, R82, R262); edges past the list of samples are quiet by the model's choice (log 1). -/
def Obligations.AcceptedCommandGetsItsResponse : Prop :=
  ∀ s : State, s.phase = .idle → (edgePins s).cmdValid = true → (∀ p ∈ s.inputs, p.rst = false) →
    ∃ (n : Nat) (t : State), core.run n s = .next t ∧ t.phase = .respond ∧
      t.pending.isSome = true ∧ t.accepted = s.accepted + 1

/-- R258: while a response waits, cmd_ready is 0 and nothing of the block changes, for any number of
edges at which the host neither resets nor takes it. Edges past the list of samples are quiet by the
model's choice (log 1). -/
def Obligations.WaitingResponseIsHeld : Prop :=
  ∀ (n : Nat) (s : State), s.phase = .respond →
    (∀ p ∈ s.inputs.take n, p.rst = false ∧ p.rspReady = false) →
    (∀ p, cmdReady p s = false) ∧
    core.run n s = .next { s with inputs := s.inputs.drop n }

/-- When the host takes a response, the phase becomes IDLE (R82); that nothing is pending then is read
from R44 (log 15). -/
def Obligations.ResponseTransferReturnsToIdle : Prop :=
  ∀ s : State, s.phase = .respond → (edgePins s).rst = false → (edgePins s).rspReady = true →
    step s = .next { passEdge s with phase := .idle, pending := none }

/-- The output signals at every phase and every input (R81, R251): cmd_ready in IDLE, rsp_valid with the
pending response in RESPOND, both 0 in BUSY and while rst is 1. -/
def Obligations.OutputsFollowThePhase : Prop :=
  ∀ (p : Pins) (s : State),
    ((outputs p s).cmdReady = true ↔ p.rst = false ∧ s.phase = .idle) ∧
    ((outputs p s).rspValid = true ↔ p.rst = false ∧ s.phase = .respond) ∧
    ((outputs p s).rspValid = true → ∀ c v, s.pending = some (c, v) →
      (outputs p s).response = some (ccCode c, v))

/-- R261: with rst = 0, only the edge from BUSY to RESPOND changes a register, a CSR field or a table,
and that edge has the whole effect of the sampled command. -/
def Obligations.EffectsAppearAtOneEdge : Prop :=
  ∀ s t : State, (edgePins s).rst = false → step s = .next t →
    (¬ (s.phase = .busy ∧ t.phase = .respond) →
      t.x = s.x ∧ t.ksel = s.ksel ∧ t.poly = s.poly ∧ t.gen = s.gen ∧ t.lastCC = s.lastCC ∧
      t.err = s.err ∧ t.cfgValid = s.cfgValid ∧ t.lxValid = s.lxValid ∧ t.rtValid = s.rtValid ∧
      t.rt = s.rt ∧ t.log = s.log ∧ t.exp = s.exp) ∧
    (s.phase = .busy → t.phase = .respond → runSampled (passEdge s) = .next t)

/-! ### The invariant -/

/-- The invariant holds right after reset. Its port clause is read from R44 and R82 (log 15). -/
def Obligations.InvHoldsAtReset : Prop := BlockInv State.reset

/-- Every edge keeps the invariant: POLY below 2^k, valid bits only with the tables they promise, GEN 0
without tables, one response exactly in RESPOND, ERR set by every error. That nothing is pending outside
RESPOND is read from R44 and R82 (log 15). -/
def Obligations.StepKeepsInv : Prop :=
  ∀ s t : State, BlockInv s → step s = .next t → BlockInv t

/-- R40 to R42: contents of RT, LOG and EXP while their valid bit is 0 are unobservable: two states that
differ in nothing else step to states that differ in nothing else. So no response and no flag depends on
the values log 3 names; that no latency does is the model's reading (log 2). -/
def Obligations.UnbuiltTablesAreUnobservable : Prop :=
  ∀ s t s' : State, SameButHidden s t → step s = .next s' →
    ∃ t', step t = .next t' ∧ SameButHidden s' t'

/-! ### Completions -/

/-- Every command, in every state, ends in exactly one response, of the code in LASTCC (R80, R222,
R223). -/
def Obligations.EveryCommandCompletes : Prop :=
  ∀ (i : Instr) (s : State), ∃ t v, exec i s = .next t ∧ t.phase = .respond ∧
    t.pending = some (t.lastCC, v)

/-- R223: an error completion, of a command or of an illegal word, changes LASTCC, ERR and the port
alone, with the one exception of BLDLX with NOT_GENERATOR. -/
def Obligations.ErrorCompletionsArePrecise : Prop :=
  (∀ (i : Instr) (s t : State), exec i s = .next t → t.lastCC ≠ .ok →
    t = errorResponse t.lastCC
      (if t.lastCC = .notGenerator then { s with lxValid := false, gen := 0 } else s) ∧
    (t.lastCC = .notGenerator → ∃ rs1, i = .bldlx rs1)) ∧
  (∀ s t : State, runSampled s = .next t → t.lastCC ≠ .ok →
    t = errorResponse t.lastCC
      (if t.lastCC = .notGenerator then { s with lxValid := false, gen := 0 } else s))

/-- An OK completion answers (OK, v) and leaves ERR as it was, except that CLRST clears it; a command
that writes rd answers what it wrote (R31, R222). -/
def Obligations.OkCompletionsAnswerTheirResult : Prop :=
  ∀ (i : Instr) (s t : State), exec i s = .next t → t.lastCC = .ok →
    t.err = (if i = .clrst then false else s.err) ∧
    ∃ v, t.pending = some (.ok, v) ∧ ∀ rd, destination i = some rd → readReg rd t = v

/-- No command ends with a code R221 does not list for it. -/
def Obligations.CommandsEndOnlyWithListedCodes : Prop :=
  ∀ (i : Instr) (s t : State), i.wellFormed = true → exec i s = .next t →
    t.lastCC = .ok ∨ t.lastCC ∈ listedCodes i

/-- R224: the first error that applies is reported: ILLEGAL, NOCFG, WIDTH, OPERAND, TABLE, then the
outcome. -/
def Obligations.FirstErrorIsReported : Prop :=
  (∀ (s : State) (e : DecodeError), s.phase = .busy → s.busyLeft = 0 → (edgePins s).rst = false →
    decode s.cmdWord s.cmdData = .error e → step s = .next (errorResponse .illegal (passEdge s))) ∧
  ∀ (i : Instr) (s : State), i.wellFormed = true →
    let nocfg := needsField i = true ∧ s.cfgValid = false
    let width := ∃ k, familyOrder i = some k ∧ s.ksel ≠ k
    (nocfg → exec i s = .next (errorResponse .nocfg s)) ∧
    (¬ nocfg → width → exec i s = .next (errorResponse .width s)) ∧
    (¬ nocfg → ¬ width → operandsInRange s i = false →
      exec i s = .next (errorResponse .operand s)) ∧
    (¬ nocfg → ¬ width → operandsInRange s i = true → tablesReady s i = false →
      exec i s = .next (errorResponse .table s)) ∧
    (¬ nocfg → ¬ width → operandsInRange s i = true → tablesReady s i = true →
      ∃ t, exec i s = .next t ∧
        (t.lastCC = .ok ∨ t.lastCC = .notGenerator ∨ t.lastCC = .notInvertible))

/-- A command writes no register but its destination, and that one only when it completes with OK
(R31). -/
def Obligations.RegistersWrittenOnlyAsListed : Prop :=
  ∀ (i : Instr) (s t : State) (r : RegIdx), exec i s = .next t →
    (t.lastCC ≠ .ok ∨ destination i ≠ some r) → readReg r t = readReg r s

/-- Who writes what (R33 to R42): KSEL, POLY and CFG_VALID only CFG; LX_VALID and GEN only CFG and BLDLX;
LOG and EXP only BLDLX; RT_VALID only CFG and BLDRT; RT only BLDRT. That no command writes the sampled
words, the counters or the host's samples is the model's own (log 1, 2 and 6). -/
def Obligations.CsrsAndTablesWrittenOnlyByTheirCommands : Prop :=
  ∀ (i : Instr) (s t : State), exec i s = .next t →
    ((∀ k r, i ≠ .cfg k r) → t.ksel = s.ksel ∧ t.poly = s.poly ∧ t.cfgValid = s.cfgValid) ∧
    ((∀ k r, i ≠ .cfg k r) → (∀ r, i ≠ .bldlx r) → t.lxValid = s.lxValid ∧ t.gen = s.gen) ∧
    ((∀ r, i ≠ .bldlx r) → t.log = s.log ∧ t.exp = s.exp) ∧
    ((∀ k r, i ≠ .cfg k r) → i ≠ .bldrt → t.rtValid = s.rtValid) ∧
    (i ≠ .bldrt → t.rt = s.rt) ∧
    t.cmdWord = s.cmdWord ∧ t.cmdData = s.cmdData ∧ t.busyLeft = s.busyLeft ∧
    t.accepted = s.accepted ∧ t.inputs = s.inputs

/-- ERR goes from 1 to 0 only at an edge with rst = 1 or at the completion of CLRST, and CFG_VALID only
at an edge with rst = 1 (R34). -/
def Obligations.StickyBitsClearedOnlyAsStated : Prop :=
  ∀ s t : State, (edgePins s).rst = false → step s = .next t →
    (s.err = true → t.err = false →
      s.phase = .busy ∧ decode s.cmdWord s.cmdData = .ok .clrst) ∧
    (s.cfgValid = true → t.cfgValid = true)

/-! ### Control commands -/

/-- NOP changes LASTCC alone, CLRST clears ERR besides; both answer (OK, 0) (R110, R115). -/
def Obligations.NopAndClrstResults : Prop :=
  ∀ s : State, exec .nop s = .next (okResponse 0 s) ∧
    exec .clrst s = .next (okResponse 0 { s with err := false })

/-- LDI writes DATA unchanged; MOV copies a register, read before the write (R111, R112). -/
def Obligations.RegisterMoves : Prop :=
  ∀ (rd rs1 : RegIdx) (imm : Word) (s : State),
    exec (.ldi rd imm) s = .next (okToRd rd imm s) ∧
    exec (.mov rd rs1) s = .next (okToRd rd (readReg rs1 s) s)

/-- RDCSR reads each CSR of R33 as it was before this command's completion, and completes with ILLEGAL
for the reserved numbers (R33 to R38, R113). -/
def Obligations.RdcsrReadsTheCsrs : Prop :=
  ∀ (rd : RegIdx) (s : State),
    let k := order s
    let status := (ccCode s.lastCC).toNat + 16 * s.err.toNat + 256 * s.cfgValid.toNat +
      512 * s.lxValid.toNat + 1024 * s.rtValid.toNat
    let reads := fun (csr : CsrIdx) (v : Nat) =>
      exec (.rdcsr rd csr) s = .next (okToRd rd (BitVec.ofNat 64 v) s)
    reads 0 status ∧ reads 1 (kselBits s.ksel).toNat ∧ reads 2 k ∧ reads 3 (polyNat s) ∧
    reads 4 (polyNat s ||| 2 ^ k) ∧ reads 5 (2 ^ (k - 1)) ∧ reads 6 (2 ^ k - 1) ∧ reads 7 (2 ^ k) ∧
    reads 8 s.gen.toNat ∧
    ∀ csr : CsrIdx, 9 ≤ csr → exec (.rdcsr rd csr) s = .next (errorResponse .illegal s)

/-- CFG with a polynomial below 2^k' configures the field, sets CFG_VALID and clears LX_VALID, RT_VALID
and GEN; with any other it completes with OPERAND (R114). The entries of the old tables stay (log 4). -/
def Obligations.CfgConstructsTheField : Prop :=
  ∀ (ksel : KSel) (rs1 : RegIdx) (s : State),
    (operand rs1 s < 2 ^ kselOrder ksel →
      exec (.cfg ksel rs1) s = .next (okResponse 0
        { s with ksel := ksel, poly := (readReg rs1 s).setWidth 32, cfgValid := true,
                 lxValid := false, rtValid := false, gen := 0 })) ∧
    (2 ^ kselOrder ksel ≤ operand rs1 s →
      exec (.cfg ksel rs1) s = .next (errorResponse .operand s))

/-- R255 to R257: right after a completed CFG, every command that reads RT, LOG or EXP completes with an
error and changes nothing else. -/
def Obligations.CfgInvalidatesTheTables : Prop :=
  ∀ (ksel : KSel) (rs1 : RegIdx) (s t : State) (i : Instr),
    exec (.cfg ksel rs1) s = .next t → t.lastCC = .ok →
    (tablesReady { t with lxValid := false, rtValid := false } i = false) →
    ∃ c, c ≠ .ok ∧ exec i t = .next (errorResponse c t)

/-! ### Reference arithmetic -/

/-- ADD is the XOR of its operands (R131). -/
def Obligations.AddIsXor : Prop :=
  ∀ (rd rs1 rs2 : RegIdx) (s : State), s.cfgValid = true →
    operand rs1 s < 2 ^ order s → operand rs2 s < 2 ^ order s →
    exec (.add rd rs1 rs2) s = .next (okToRd rd (readReg rs1 s ^^^ readReg rs2 s) s)

/-- MUL is `pmod(clmul(a, b), FULL_POLY)`, below 2^k, whether or not the polynomial is irreducible
(R132). -/
def Obligations.MulIsFieldProduct : Prop :=
  ∀ (rd rs1 rs2 : RegIdx) (s : State), polyNat s < 2 ^ order s → s.cfgValid = true →
    operand rs1 s < 2 ^ order s → operand rs2 s < 2 ^ order s →
    ∃ r, r < 2 ^ order s ∧ IsRemainder (clmul (operand rs1 s) (operand rs2 s)) (fullPoly s) r ∧
      exec (.mul rd rs1 rs2) s = .next (okToRd rd (BitVec.ofNat 64 r) s)

/-- MULL is clmul(a, b), below 2^(2k-1), and does not depend on POLY (R133). -/
def Obligations.MullIsCarrylessProduct : Prop :=
  ∀ (rd rs1 rs2 : RegIdx) (s : State), s.cfgValid = true →
    operand rs1 s < 2 ^ order s → operand rs2 s < 2 ^ order s →
    clmul (operand rs1 s) (operand rs2 s) < 2 ^ (2 * order s - 1) ∧
    exec (.mull rd rs1 rs2) s =
      .next (okToRd rd (BitVec.ofNat 64 (clmul (operand rs1 s) (operand rs2 s))) s)

/-- MODR is `pmod(x, FULL_POLY)`, below 2^k (R134). -/
def Obligations.ModrIsRemainder : Prop :=
  ∀ (rd rs1 : RegIdx) (s : State), polyNat s < 2 ^ order s → s.cfgValid = true →
    operand rs1 s < 2 ^ doubleWidthOf s.ksel →
    ∃ r, r < 2 ^ order s ∧ IsRemainder (operand rs1 s) (fullPoly s) r ∧
      exec (.modr rd rs1) s = .next (okToRd rd (BitVec.ofNat 64 r) s)

/-- INV (R135): 0 for 0; the element r with MUL(a, r) = 1 where there is one, for a reducible polynomial
too; NOT_INVERTIBLE where there is none. -/
def Obligations.InvIsTheInverse : Prop :=
  ∀ (rd rs1 : RegIdx) (s : State), polyNat s < 2 ^ order s → s.cfgValid = true →
    operand rs1 s < 2 ^ order s →
    (operand rs1 s = 0 → exec (.inv rd rs1) s = .next (okToRd rd 0 s)) ∧
    (∀ r, r < 2 ^ order s → gfMul (order s) (polyNat s) (operand rs1 s) r = 1 →
      exec (.inv rd rs1) s = .next (okToRd rd (BitVec.ofNat 64 r) s)) ∧
    (operand rs1 s ≠ 0 →
      (∀ r, r < 2 ^ order s → gfMul (order s) (polyNat s) (operand rs1 s) r ≠ 1) →
      exec (.inv rd rs1) s = .next (errorResponse .notInvertible s))

/-- DIV (R136): 0 for the divisor 0; MUL(a, r) for the inverse r of the divisor; NOT_INVERTIBLE where
the divisor has none. -/
def Obligations.DivMultipliesByTheInverse : Prop :=
  ∀ (rd rs1 rs2 : RegIdx) (s : State), polyNat s < 2 ^ order s → s.cfgValid = true →
    operand rs1 s < 2 ^ order s → operand rs2 s < 2 ^ order s →
    (operand rs2 s = 0 → exec (.div rd rs1 rs2) s = .next (okToRd rd 0 s)) ∧
    (∀ r, r < 2 ^ order s → gfMul (order s) (polyNat s) (operand rs2 s) r = 1 →
      exec (.div rd rs1 rs2) s = .next (okToRd rd
        (BitVec.ofNat 64 (gfMul (order s) (polyNat s) (operand rs1 s) r)) s)) ∧
    (operand rs2 s ≠ 0 →
      (∀ r, r < 2 ^ order s → gfMul (order s) (polyNat s) (operand rs2 s) r ≠ 1) →
      exec (.div rd rs1 rs2) s = .next (errorResponse .notInvertible s))

/-- POW is a·a·…·a with `b mod (2^k - 1)` factors, 1 for none (R137). -/
def Obligations.PowIsIteratedMul : Prop :=
  ∀ (rd rs1 rs2 : RegIdx) (s : State), polyNat s < 2 ^ order s → s.cfgValid = true →
    operand rs1 s < 2 ^ order s → operand rs2 s < 2 ^ doubleWidthOf s.ksel →
    exec (.pow rd rs1 rs2) s = .next (okToRd rd (BitVec.ofNat 64
      (mulPower (order s) (polyNat s) (operand rs1 s) (operand rs2 s % (2 ^ order s - 1)))) s)

/-- The source's mandatory conformance check as three commands: MODR of the response of MULL answers what
MUL answers (R138). -/
def Obligations.ModrOfMullIsMul : Prop :=
  ∀ (rd rs1 rs2 : RegIdx) (s : State), polyNat s < 2 ^ order s → s.cfgValid = true →
    operand rs1 s < 2 ^ order s → operand rs2 s < 2 ^ order s →
    ∃ t u v, exec (.mull rd rs1 rs2) s = .next t ∧ exec (.modr rd rd) t = .next u ∧
      exec (.mul rd rs1 rs2) s = .next v ∧ u.pending = v.pending ∧ v.lastCC = .ok

/-- The algebraic identities of R138 at every order: MUL(a,1) = a, MUL(a,0) = 0, commutativity, and
distributivity over ADD. -/
def Obligations.MulLaws : Prop :=
  ∀ (ksel : KSel) (poly a b c : Nat), let k := kselOrder ksel
    poly < 2 ^ k → a < 2 ^ k → b < 2 ^ k → c < 2 ^ k →
    gfMul k poly a 1 = a ∧ gfMul k poly a 0 = 0 ∧ gfMul k poly a b = gfMul k poly b a ∧
    gfMul k poly (a ^^^ b) c = gfMul k poly a c ^^^ gfMul k poly b c

/-! ### Log and exp tables -/

/-- BLDLX at k = 8 with g < 256: a generator gets its tables, LX_VALID and GEN; any other g completes
with NOT_GENERATOR and leaves LX_VALID = 0 and GEN = 0 (R163), the entries as they were (log 4). -/
def Obligations.BldlxBuildsOrInvalidates : Prop :=
  ∀ (rs1 : RegIdx) (s : State), s.cfgValid = true → s.ksel = .k8 → operand rs1 s < 256 →
    (IsGenerator (polyNat s) (operand rs1 s) →
      exec (.bldlx rs1) s = .next (okResponse 0
        { s with log := logTable (polyNat s) (operand rs1 s),
                 exp := expTable (polyNat s) (operand rs1 s),
                 lxValid := true, gen := (readReg rs1 s).setWidth 8 })) ∧
    (¬ IsGenerator (polyNat s) (operand rs1 s) →
      exec (.bldlx rs1) s =
        .next (errorResponse .notGenerator { s with lxValid := false, gen := 0 }))

/-- R161: the check passes exactly for the g of order 255; then g^0 .. g^254 are distinct and non-zero.
That every non-zero element then has an inverse is R161's "Passing therefore also proves that the
polynomial makes a field of 256 elements", which the spec marks as general knowledge, not in source. -/
def Obligations.GeneratorCheckMeansOrder255 : Prop :=
  ∀ poly g : Nat, poly < 256 → g < 256 →
    (generatorCheck poly g = true ↔ IsGenerator poly g) ∧
    (generatorCheck poly g = true →
      (∀ i j, i < j → j < 255 → mulPower 8 poly g i ≠ mulPower 8 poly g j) ∧
      (∀ i, i < 255 → mulPower 8 poly g i ≠ 0 ∧ mulPower 8 poly g i < 256) ∧
      ∀ a, 0 < a → a < 256 → ∃ r, r < 256 ∧ gfMul 8 poly a r = 1)

/-- R162: the contents of LOG and EXP after a successful BLDLX with generator g, gp(i) being g^i. -/
def Obligations.LogExpTableContents : Prop :=
  ∀ (rs1 : RegIdx) (s t : State), polyNat s < 2 ^ order s →
    exec (.bldlx rs1) s = .next t → t.lastCC = .ok →
    let gp := mulPower 8 (polyNat s) (operand rs1 s)
    gp 0 = 1 ∧ gp 255 = 1 ∧ t.log[0]? = some (BitVec.ofInt 9 (-256)) ∧
    (∀ i, i < 255 → t.log[gp i]? = some (BitVec.ofNat 9 i)) ∧
    (∀ x, 0 < x → x < 256 → ∃ i, i < 255 ∧ gp i = x) ∧
    (∀ j, j < 512 → t.exp[j]? = some 0) ∧
    (∀ i, i < 256 → t.exp[512 + i]? = some (BitVec.ofNat 8 (gp i))) ∧
    (∀ i, i < 255 → t.exp[768 + i]? = some (BitVec.ofNat 8 (gp (i + 1)))) ∧
    t.exp[1023]? = some 0 ∧
    (∀ j, j < 511 → t.exp[512 + j]? = some (BitVec.ofNat 8 (gp (j % 255))))

/-- LOGRD answers entry a of LOG sign-extended, EXPRD entry j of EXP zero-extended (R164, R165). -/
def Obligations.LogrdAndExprdReadTheTables : Prop :=
  ∀ (rd rs1 : RegIdx) (s : State), s.cfgValid = true → s.ksel = .k8 → s.lxValid = true →
    (∀ e, s.log[operand rs1 s]? = some e →
      exec (.logrd rd rs1) s = .next (okToRd rd (e.signExtend 64) s)) ∧
    (∀ e, s.exp[operand rs1 s]? = some e →
      exec (.exprd rd rs1) s = .next (okToRd rd (e.setWidth 64) s))

/-- MULX answers EXP[BIAS + LOG[a] + LOG[b]], a signed sum that is always an index of EXP (R166). -/
def Obligations.MulxReadsExpAtSumOfLogs : Prop :=
  ∀ (rd rs1 rs2 : RegIdx) (s : State) (la lb : BitVec 9),
    s.cfgValid = true → s.ksel = .k8 → s.lxValid = true →
    s.log[operand rs1 s]? = some la → s.log[operand rs2 s]? = some lb →
    ∃ (j : Nat) (e : BitVec 8), (j : Int) = 512 + la.toInt + lb.toInt ∧ s.exp[j]? = some e ∧
      exec (.mulx rd rs1 rs2) s = .next (okToRd rd (e.setWidth 64) s)

/-- INVX answers EXP[BIAS + 255 - LOG[a]] (R167). -/
def Obligations.InvxReadsExpAtNegatedLog : Prop :=
  ∀ (rd rs1 : RegIdx) (s : State) (la : BitVec 9),
    s.cfgValid = true → s.ksel = .k8 → s.lxValid = true → s.log[operand rs1 s]? = some la →
    ∃ (j : Nat) (e : BitVec 8), (j : Int) = 512 + 255 - la.toInt ∧ s.exp[j]? = some e ∧
      exec (.invx rd rs1) s = .next (okToRd rd (e.setWidth 64) s)

/-- POWX answers EXP[BIAS + trem(LOG[a]·b, 255)]: the remainder m has the sign of LOG[a], or is 0
(R14, R168). -/
def Obligations.PowxReadsExpAtScaledLog : Prop :=
  ∀ (rd rs1 rs2 : RegIdx) (s : State) (la : BitVec 9),
    s.cfgValid = true → s.ksel = .k8 → s.lxValid = true → s.log[operand rs1 s]? = some la →
    operand rs2 s < 65536 →
    ∃ (j : Nat) (e : BitVec 8) (q m : Int), (j : Int) = 512 + m ∧
      la.toInt * (operand rs2 s : Int) = 255 * q + m ∧ m.natAbs < 255 ∧
      (0 ≤ la.toInt → 0 ≤ m) ∧ (la.toInt ≤ 0 → m ≤ 0) ∧ s.exp[j]? = some e ∧
      exec (.powx rd rs1 rs2) s = .next (okToRd rd (e.setWidth 64) s)

/-- R169: while LX_VALID = 1, the indices of MULX, INVX and POWX lie in the ranges stated. -/
def Obligations.ExpIndexRanges : Prop :=
  ∀ (s : State) (a b e : Nat), BlockInv s → s.lxValid = true → a < 256 → b < 256 →
    (0 ≤ mulxIndex s a b ∧ mulxIndex s a b ≤ 1020) ∧
    (a ≠ 0 → 513 ≤ invxIndex s a ∧ invxIndex s a ≤ 767) ∧ (a = 0 → invxIndex s a = 1023) ∧
    (258 ≤ powxIndex s a e ∧ powxIndex s a e ≤ 766)

/-- The conformance law of R170 for MULX: while LX_VALID = 1, it does what MUL does. -/
def Obligations.MulxEqualsMul : Prop :=
  ∀ (rd rs1 rs2 : RegIdx) (s : State), BlockInv s → s.lxValid = true →
    exec (.mulx rd rs1 rs2) s = exec (.mul rd rs1 rs2) s

/-- The conformance law of R170 for INVX: while LX_VALID = 1, it does what INV does. -/
def Obligations.InvxEqualsInv : Prop :=
  ∀ (rd rs1 : RegIdx) (s : State), BlockInv s → s.lxValid = true →
    exec (.invx rd rs1) s = exec (.inv rd rs1) s

/-- The conformance law of R170 for POWX: while LX_VALID = 1, it does what POW does. -/
def Obligations.PowxEqualsPow : Prop :=
  ∀ (rd rs1 rs2 : RegIdx) (s : State), BlockInv s → s.lxValid = true →
    exec (.powx rd rs1 rs2) s = exec (.pow rd rs1 rs2) s

/-! ### Decomposition -/

/-- NBM answers clmul(x, n), below 2^11, in every state (R193). -/
def Obligations.NbmIsCarrylessProduct : Prop :=
  ∀ (rd rs1 rs2 : RegIdx) (s : State), operand rs1 s < 256 → operand rs2 s < 16 →
    clmul (operand rs1 s) (operand rs2 s) < 2 ^ 11 ∧
    exec (.nbm rd rs1 rs2) s =
      .next (okToRd rd (BitVec.ofNat 64 (clmul (operand rs1 s) (operand rs2 s))) s)

/-- BLDRT writes the whole of RT and sets RT_VALID (R194). -/
def Obligations.BldrtBuildsTheTable : Prop :=
  ∀ s : State, s.cfgValid = true → s.ksel = .k16 →
    exec .bldrt s = .next (okResponse 0 { s with rt := rtTable (polyNat s), rtValid := true })

/-- R191: after a successful BLDRT entry i of RT is `pmod(i << 16, FULL_POLY)`, which is MODR's answer
for it; entries 0 and 1 are 0 and POLY; the table is linear over XOR. -/
def Obligations.RtEntriesAreRemainders : Prop :=
  ∀ s t : State, polyNat s < 2 ^ order s → exec .bldrt s = .next t → t.lastCC = .ok →
    let entry := fun i => (t.rt[i]?).map BitVec.toNat
    (∀ i, i < 256 → ∃ r, r < 65536 ∧ entry i = some r ∧
      r = gfReduce 16 (polyNat s) (i <<< 16) ∧ IsRemainder (i <<< 16) (fullPoly s) r) ∧
    entry 0 = some 0 ∧ entry 1 = some (polyNat s) ∧
    ∀ i j x y, i < 256 → j < 256 → entry i = some x → entry j = some y →
      entry (i ^^^ j) = some (x ^^^ y)

/-- RTRD answers entry i of RT; MSL8 answers the shifted low byte XOR the entry of the high byte
(R195, R196). -/
def Obligations.RtrdAndMsl8ReadTheTable : Prop :=
  ∀ (rd rs1 : RegIdx) (s : State) (e : BitVec 16),
    s.cfgValid = true → s.ksel = .k16 → s.rtValid = true →
    (s.rt[operand rs1 s]? = some e →
      exec (.rtrd rd rs1) s = .next (okToRd rd (e.setWidth 64) s)) ∧
    (s.rt[operand rs1 s / 256]? = some e →
      exec (.msl8 rd rs1) s = .next (okToRd rd
        (BitVec.ofNat 64 (operand rs1 s % 256 * 256 ^^^ e.toNat)) s))

/-- MODRB folds the four bytes of x, the most significant first, through MSL8's shift (R198); the
bytes are written as numbers. -/
def Obligations.ModrbFoldsFourBytes : Prop :=
  ∀ (rd rs1 : RegIdx) (s : State), s.cfgValid = true → s.ksel = .k16 → s.rtValid = true →
    operand rs1 s < 4294967296 →
    ∃ r3 r2 r1 : Nat,
      r3 = shiftReduce8 s 0 ^^^ operand rs1 s / 16777216 ∧
      r2 = shiftReduce8 s r3 ^^^ operand rs1 s / 65536 % 256 ∧
      r1 = shiftReduce8 s r2 ^^^ operand rs1 s / 256 % 256 ∧
      exec (.modrb rd rs1) s = .next (okToRd rd
        (BitVec.ofNat 64 (shiftReduce8 s r1 ^^^ operand rs1 s % 256)) s)

/-- MULD evaluates ((aH·b1)·x^8 + aH·b0 + aL·b1)·x^8 + aL·b0 with carry-less byte products, reducing at
each ·x^8 through MSL8's shift (R197). -/
def Obligations.MuldEvaluatesByBytes : Prop :=
  ∀ (rd rs1 rs2 : RegIdx) (s : State), s.cfgValid = true → s.ksel = .k16 → s.rtValid = true →
    operand rs1 s < 65536 → operand rs2 s < 65536 →
    let aH := operand rs1 s / 256
    let aL := operand rs1 s % 256
    let b1 := operand rs2 s / 256
    let b0 := operand rs2 s % 256
    ∃ r1 r2 : Nat, r1 = clmul aH b1 ∧ r2 = shiftReduce8 s r1 ^^^ clmul aH b0 ^^^ clmul aL b1 ∧
      exec (.muld rd rs1 rs2) s =
        .next (okToRd rd (BitVec.ofNat 64 (shiftReduce8 s r2 ^^^ clmul aL b0)) s)

/-- The conformance law of R199 for MULD: while RT_VALID = 1, it does what MUL does. -/
def Obligations.MuldEqualsMul : Prop :=
  ∀ (rd rs1 rs2 : RegIdx) (s : State), BlockInv s → s.rtValid = true →
    exec (.muld rd rs1 rs2) s = exec (.mul rd rs1 rs2) s

/-- The conformance law of R199 for MODRB: while RT_VALID = 1, it does what MODR does. -/
def Obligations.ModrbEqualsModr : Prop :=
  ∀ (rd rs1 : RegIdx) (s : State), BlockInv s → s.rtValid = true →
    exec (.modrb rd rs1) s = exec (.modr rd rs1) s

/-- The conformance law of R199 for MSL8: while RT_VALID = 1, it answers MUL(a, 0x100). -/
def Obligations.Msl8EqualsMulByX8 : Prop :=
  ∀ (rd rs1 : RegIdx) (s : State), BlockInv s → s.rtValid = true → operand rs1 s < 65536 →
    exec (.msl8 rd rs1) s = .next (okToRd rd
      (BitVec.ofNat 64 (gfMul 16 (polyNat s) (operand rs1 s) 0x100)) s)
end

