-- ==== Sys2Proof/Laws/State.lean ====
section
/-! SUPPORT. The fields of every state update: one lemma a field an update, by rfl, so that no later
proof unfolds a record update. -/

namespace Sys2Proof.Machine

section Updates

variable (s : State)

/-! writeReg -/

@[simp] theorem writeReg_x (r : RegIdx) (v : Word) : (writeReg r v s).x = s.x.set r.toNat v r.isLt := rfl
@[simp] theorem writeReg_ksel (r : RegIdx) (v : Word) : (writeReg r v s).ksel = s.ksel := rfl
@[simp] theorem writeReg_poly (r : RegIdx) (v : Word) : (writeReg r v s).poly = s.poly := rfl
@[simp] theorem writeReg_gen (r : RegIdx) (v : Word) : (writeReg r v s).gen = s.gen := rfl
@[simp] theorem writeReg_lastCC (r : RegIdx) (v : Word) : (writeReg r v s).lastCC = s.lastCC := rfl
@[simp] theorem writeReg_err (r : RegIdx) (v : Word) : (writeReg r v s).err = s.err := rfl
@[simp] theorem writeReg_cfgValid (r : RegIdx) (v : Word) : (writeReg r v s).cfgValid = s.cfgValid := rfl
@[simp] theorem writeReg_lxValid (r : RegIdx) (v : Word) : (writeReg r v s).lxValid = s.lxValid := rfl
@[simp] theorem writeReg_rtValid (r : RegIdx) (v : Word) : (writeReg r v s).rtValid = s.rtValid := rfl
@[simp] theorem writeReg_rt (r : RegIdx) (v : Word) : (writeReg r v s).rt = s.rt := rfl
@[simp] theorem writeReg_log (r : RegIdx) (v : Word) : (writeReg r v s).log = s.log := rfl
@[simp] theorem writeReg_exp (r : RegIdx) (v : Word) : (writeReg r v s).exp = s.exp := rfl
@[simp] theorem writeReg_phase (r : RegIdx) (v : Word) : (writeReg r v s).phase = s.phase := rfl
@[simp] theorem writeReg_pending (r : RegIdx) (v : Word) : (writeReg r v s).pending = s.pending := rfl
@[simp] theorem writeReg_cmdWord (r : RegIdx) (v : Word) : (writeReg r v s).cmdWord = s.cmdWord := rfl
@[simp] theorem writeReg_cmdData (r : RegIdx) (v : Word) : (writeReg r v s).cmdData = s.cmdData := rfl
@[simp] theorem writeReg_busyLeft (r : RegIdx) (v : Word) : (writeReg r v s).busyLeft = s.busyLeft := rfl
@[simp] theorem writeReg_accepted (r : RegIdx) (v : Word) : (writeReg r v s).accepted = s.accepted := rfl
@[simp] theorem writeReg_inputs (r : RegIdx) (v : Word) : (writeReg r v s).inputs = s.inputs := rfl

/-! completeOk -/

@[simp] theorem completeOk_x (v : Word) : (completeOk v s).x = s.x := rfl
@[simp] theorem completeOk_ksel (v : Word) : (completeOk v s).ksel = s.ksel := rfl
@[simp] theorem completeOk_poly (v : Word) : (completeOk v s).poly = s.poly := rfl
@[simp] theorem completeOk_gen (v : Word) : (completeOk v s).gen = s.gen := rfl
@[simp] theorem completeOk_lastCC (v : Word) : (completeOk v s).lastCC = .ok := rfl
@[simp] theorem completeOk_err (v : Word) : (completeOk v s).err = s.err := rfl
@[simp] theorem completeOk_cfgValid (v : Word) : (completeOk v s).cfgValid = s.cfgValid := rfl
@[simp] theorem completeOk_lxValid (v : Word) : (completeOk v s).lxValid = s.lxValid := rfl
@[simp] theorem completeOk_rtValid (v : Word) : (completeOk v s).rtValid = s.rtValid := rfl
@[simp] theorem completeOk_rt (v : Word) : (completeOk v s).rt = s.rt := rfl
@[simp] theorem completeOk_log (v : Word) : (completeOk v s).log = s.log := rfl
@[simp] theorem completeOk_exp (v : Word) : (completeOk v s).exp = s.exp := rfl
@[simp] theorem completeOk_phase (v : Word) : (completeOk v s).phase = .respond := rfl
@[simp] theorem completeOk_pending (v : Word) : (completeOk v s).pending = some (.ok, v) := rfl
@[simp] theorem completeOk_cmdWord (v : Word) : (completeOk v s).cmdWord = s.cmdWord := rfl
@[simp] theorem completeOk_cmdData (v : Word) : (completeOk v s).cmdData = s.cmdData := rfl
@[simp] theorem completeOk_busyLeft (v : Word) : (completeOk v s).busyLeft = s.busyLeft := rfl
@[simp] theorem completeOk_accepted (v : Word) : (completeOk v s).accepted = s.accepted := rfl
@[simp] theorem completeOk_inputs (v : Word) : (completeOk v s).inputs = s.inputs := rfl

/-! completeError -/

@[simp] theorem completeError_x (c : CC) : (completeError c s).x = s.x := rfl
@[simp] theorem completeError_ksel (c : CC) : (completeError c s).ksel = s.ksel := rfl
@[simp] theorem completeError_poly (c : CC) : (completeError c s).poly = s.poly := rfl
@[simp] theorem completeError_gen (c : CC) : (completeError c s).gen = s.gen := rfl
@[simp] theorem completeError_lastCC (c : CC) : (completeError c s).lastCC = c := rfl
@[simp] theorem completeError_err (c : CC) : (completeError c s).err = true := rfl
@[simp] theorem completeError_cfgValid (c : CC) : (completeError c s).cfgValid = s.cfgValid := rfl
@[simp] theorem completeError_lxValid (c : CC) : (completeError c s).lxValid = s.lxValid := rfl
@[simp] theorem completeError_rtValid (c : CC) : (completeError c s).rtValid = s.rtValid := rfl
@[simp] theorem completeError_rt (c : CC) : (completeError c s).rt = s.rt := rfl
@[simp] theorem completeError_log (c : CC) : (completeError c s).log = s.log := rfl
@[simp] theorem completeError_exp (c : CC) : (completeError c s).exp = s.exp := rfl
@[simp] theorem completeError_phase (c : CC) : (completeError c s).phase = .respond := rfl
@[simp] theorem completeError_pending (c : CC) : (completeError c s).pending = some (c, 0) := rfl
@[simp] theorem completeError_cmdWord (c : CC) : (completeError c s).cmdWord = s.cmdWord := rfl
@[simp] theorem completeError_cmdData (c : CC) : (completeError c s).cmdData = s.cmdData := rfl
@[simp] theorem completeError_busyLeft (c : CC) : (completeError c s).busyLeft = s.busyLeft := rfl
@[simp] theorem completeError_accepted (c : CC) : (completeError c s).accepted = s.accepted := rfl
@[simp] theorem completeError_inputs (c : CC) : (completeError c s).inputs = s.inputs := rfl

/-! configureField -/

@[simp] theorem configureField_x (k : KSel) (p : Nat) : (configureField k p s).x = s.x := rfl
@[simp] theorem configureField_ksel (k : KSel) (p : Nat) : (configureField k p s).ksel = k := rfl
@[simp] theorem configureField_poly (k : KSel) (p : Nat) : (configureField k p s).poly = BitVec.ofNat 32 p := rfl
@[simp] theorem configureField_gen (k : KSel) (p : Nat) : (configureField k p s).gen = 0 := rfl
@[simp] theorem configureField_lastCC (k : KSel) (p : Nat) : (configureField k p s).lastCC = s.lastCC := rfl
@[simp] theorem configureField_err (k : KSel) (p : Nat) : (configureField k p s).err = s.err := rfl
@[simp] theorem configureField_cfgValid (k : KSel) (p : Nat) : (configureField k p s).cfgValid = true := rfl
@[simp] theorem configureField_lxValid (k : KSel) (p : Nat) : (configureField k p s).lxValid = false := rfl
@[simp] theorem configureField_rtValid (k : KSel) (p : Nat) : (configureField k p s).rtValid = false := rfl
@[simp] theorem configureField_rt (k : KSel) (p : Nat) : (configureField k p s).rt = s.rt := rfl
@[simp] theorem configureField_log (k : KSel) (p : Nat) : (configureField k p s).log = s.log := rfl
@[simp] theorem configureField_exp (k : KSel) (p : Nat) : (configureField k p s).exp = s.exp := rfl
@[simp] theorem configureField_phase (k : KSel) (p : Nat) : (configureField k p s).phase = s.phase := rfl
@[simp] theorem configureField_pending (k : KSel) (p : Nat) : (configureField k p s).pending = s.pending := rfl
@[simp] theorem configureField_cmdWord (k : KSel) (p : Nat) : (configureField k p s).cmdWord = s.cmdWord := rfl
@[simp] theorem configureField_cmdData (k : KSel) (p : Nat) : (configureField k p s).cmdData = s.cmdData := rfl
@[simp] theorem configureField_busyLeft (k : KSel) (p : Nat) : (configureField k p s).busyLeft = s.busyLeft := rfl
@[simp] theorem configureField_accepted (k : KSel) (p : Nat) : (configureField k p s).accepted = s.accepted := rfl
@[simp] theorem configureField_inputs (k : KSel) (p : Nat) : (configureField k p s).inputs = s.inputs := rfl

/-! passEdge -/

@[simp] theorem passEdge_x : (passEdge s).x = s.x := rfl
@[simp] theorem passEdge_ksel : (passEdge s).ksel = s.ksel := rfl
@[simp] theorem passEdge_poly : (passEdge s).poly = s.poly := rfl
@[simp] theorem passEdge_gen : (passEdge s).gen = s.gen := rfl
@[simp] theorem passEdge_lastCC : (passEdge s).lastCC = s.lastCC := rfl
@[simp] theorem passEdge_err : (passEdge s).err = s.err := rfl
@[simp] theorem passEdge_cfgValid : (passEdge s).cfgValid = s.cfgValid := rfl
@[simp] theorem passEdge_lxValid : (passEdge s).lxValid = s.lxValid := rfl
@[simp] theorem passEdge_rtValid : (passEdge s).rtValid = s.rtValid := rfl
@[simp] theorem passEdge_rt : (passEdge s).rt = s.rt := rfl
@[simp] theorem passEdge_log : (passEdge s).log = s.log := rfl
@[simp] theorem passEdge_exp : (passEdge s).exp = s.exp := rfl
@[simp] theorem passEdge_phase : (passEdge s).phase = s.phase := rfl
@[simp] theorem passEdge_pending : (passEdge s).pending = s.pending := rfl
@[simp] theorem passEdge_cmdWord : (passEdge s).cmdWord = s.cmdWord := rfl
@[simp] theorem passEdge_cmdData : (passEdge s).cmdData = s.cmdData := rfl
@[simp] theorem passEdge_busyLeft : (passEdge s).busyLeft = s.busyLeft := rfl
@[simp] theorem passEdge_accepted : (passEdge s).accepted = s.accepted := rfl
@[simp] theorem passEdge_inputs : (passEdge s).inputs = s.inputs.tail := rfl

/-! latencyView -/

@[simp] theorem latencyView_x : (latencyView s).x = s.x := rfl
@[simp] theorem latencyView_ksel : (latencyView s).ksel = s.ksel := rfl
@[simp] theorem latencyView_poly : (latencyView s).poly = s.poly := rfl
@[simp] theorem latencyView_gen : (latencyView s).gen = s.gen := rfl
@[simp] theorem latencyView_lastCC : (latencyView s).lastCC = s.lastCC := rfl
@[simp] theorem latencyView_err : (latencyView s).err = s.err := rfl
@[simp] theorem latencyView_cfgValid : (latencyView s).cfgValid = s.cfgValid := rfl
@[simp] theorem latencyView_lxValid : (latencyView s).lxValid = s.lxValid := rfl
@[simp] theorem latencyView_rtValid : (latencyView s).rtValid = s.rtValid := rfl
@[simp] theorem latencyView_rt :
    (latencyView s).rt = if s.rtValid then s.rt else State.reset.rt := rfl
@[simp] theorem latencyView_log :
    (latencyView s).log = if s.lxValid then s.log else State.reset.log := rfl
@[simp] theorem latencyView_exp :
    (latencyView s).exp = if s.lxValid then s.exp else State.reset.exp := rfl
@[simp] theorem latencyView_phase : (latencyView s).phase = s.phase := rfl
@[simp] theorem latencyView_pending : (latencyView s).pending = s.pending := rfl
@[simp] theorem latencyView_cmdWord : (latencyView s).cmdWord = s.cmdWord := rfl
@[simp] theorem latencyView_cmdData : (latencyView s).cmdData = s.cmdData := rfl
@[simp] theorem latencyView_busyLeft : (latencyView s).busyLeft = s.busyLeft := rfl
@[simp] theorem latencyView_accepted : (latencyView s).accepted = s.accepted := rfl
@[simp] theorem latencyView_inputs : (latencyView s).inputs = [] := rfl

/-! acceptCommand -/

@[simp] theorem acceptCommand_x (p : Pins) : (acceptCommand p s).x = s.x := rfl
@[simp] theorem acceptCommand_ksel (p : Pins) : (acceptCommand p s).ksel = s.ksel := rfl
@[simp] theorem acceptCommand_poly (p : Pins) : (acceptCommand p s).poly = s.poly := rfl
@[simp] theorem acceptCommand_gen (p : Pins) : (acceptCommand p s).gen = s.gen := rfl
@[simp] theorem acceptCommand_lastCC (p : Pins) : (acceptCommand p s).lastCC = s.lastCC := rfl
@[simp] theorem acceptCommand_err (p : Pins) : (acceptCommand p s).err = s.err := rfl
@[simp] theorem acceptCommand_cfgValid (p : Pins) : (acceptCommand p s).cfgValid = s.cfgValid := rfl
@[simp] theorem acceptCommand_lxValid (p : Pins) : (acceptCommand p s).lxValid = s.lxValid := rfl
@[simp] theorem acceptCommand_rtValid (p : Pins) : (acceptCommand p s).rtValid = s.rtValid := rfl
@[simp] theorem acceptCommand_rt (p : Pins) : (acceptCommand p s).rt = s.rt := rfl
@[simp] theorem acceptCommand_log (p : Pins) : (acceptCommand p s).log = s.log := rfl
@[simp] theorem acceptCommand_exp (p : Pins) : (acceptCommand p s).exp = s.exp := rfl
@[simp] theorem acceptCommand_phase (p : Pins) : (acceptCommand p s).phase = .busy := rfl
@[simp] theorem acceptCommand_pending (p : Pins) : (acceptCommand p s).pending = s.pending := rfl
@[simp] theorem acceptCommand_cmdWord (p : Pins) : (acceptCommand p s).cmdWord = p.cmdWord := rfl
@[simp] theorem acceptCommand_cmdData (p : Pins) : (acceptCommand p s).cmdData = p.cmdData := rfl
@[simp] theorem acceptCommand_busyLeft (p : Pins) : (acceptCommand p s).busyLeft =
    Config.latency p.cmdWord p.cmdData (latencyView s) := rfl
@[simp] theorem acceptCommand_accepted (p : Pins) : (acceptCommand p s).accepted = s.accepted + 1 := rfl
@[simp] theorem acceptCommand_inputs (p : Pins) : (acceptCommand p s).inputs = s.inputs := rfl

/-! waitBusy -/

@[simp] theorem waitBusy_x : (waitBusy s).x = s.x := rfl
@[simp] theorem waitBusy_ksel : (waitBusy s).ksel = s.ksel := rfl
@[simp] theorem waitBusy_poly : (waitBusy s).poly = s.poly := rfl
@[simp] theorem waitBusy_gen : (waitBusy s).gen = s.gen := rfl
@[simp] theorem waitBusy_lastCC : (waitBusy s).lastCC = s.lastCC := rfl
@[simp] theorem waitBusy_err : (waitBusy s).err = s.err := rfl
@[simp] theorem waitBusy_cfgValid : (waitBusy s).cfgValid = s.cfgValid := rfl
@[simp] theorem waitBusy_lxValid : (waitBusy s).lxValid = s.lxValid := rfl
@[simp] theorem waitBusy_rtValid : (waitBusy s).rtValid = s.rtValid := rfl
@[simp] theorem waitBusy_rt : (waitBusy s).rt = s.rt := rfl
@[simp] theorem waitBusy_log : (waitBusy s).log = s.log := rfl
@[simp] theorem waitBusy_exp : (waitBusy s).exp = s.exp := rfl
@[simp] theorem waitBusy_phase : (waitBusy s).phase = s.phase := rfl
@[simp] theorem waitBusy_pending : (waitBusy s).pending = s.pending := rfl
@[simp] theorem waitBusy_cmdWord : (waitBusy s).cmdWord = s.cmdWord := rfl
@[simp] theorem waitBusy_cmdData : (waitBusy s).cmdData = s.cmdData := rfl
@[simp] theorem waitBusy_busyLeft : (waitBusy s).busyLeft = s.busyLeft - 1 := rfl
@[simp] theorem waitBusy_accepted : (waitBusy s).accepted = s.accepted := rfl
@[simp] theorem waitBusy_inputs : (waitBusy s).inputs = s.inputs := rfl

/-! takeResponse -/

@[simp] theorem takeResponse_x : (takeResponse s).x = s.x := rfl
@[simp] theorem takeResponse_ksel : (takeResponse s).ksel = s.ksel := rfl
@[simp] theorem takeResponse_poly : (takeResponse s).poly = s.poly := rfl
@[simp] theorem takeResponse_gen : (takeResponse s).gen = s.gen := rfl
@[simp] theorem takeResponse_lastCC : (takeResponse s).lastCC = s.lastCC := rfl
@[simp] theorem takeResponse_err : (takeResponse s).err = s.err := rfl
@[simp] theorem takeResponse_cfgValid : (takeResponse s).cfgValid = s.cfgValid := rfl
@[simp] theorem takeResponse_lxValid : (takeResponse s).lxValid = s.lxValid := rfl
@[simp] theorem takeResponse_rtValid : (takeResponse s).rtValid = s.rtValid := rfl
@[simp] theorem takeResponse_rt : (takeResponse s).rt = s.rt := rfl
@[simp] theorem takeResponse_log : (takeResponse s).log = s.log := rfl
@[simp] theorem takeResponse_exp : (takeResponse s).exp = s.exp := rfl
@[simp] theorem takeResponse_phase : (takeResponse s).phase = .idle := rfl
@[simp] theorem takeResponse_pending : (takeResponse s).pending = none := rfl
@[simp] theorem takeResponse_cmdWord : (takeResponse s).cmdWord = s.cmdWord := rfl
@[simp] theorem takeResponse_cmdData : (takeResponse s).cmdData = s.cmdData := rfl
@[simp] theorem takeResponse_busyLeft : (takeResponse s).busyLeft = s.busyLeft := rfl
@[simp] theorem takeResponse_accepted : (takeResponse s).accepted = s.accepted := rfl
@[simp] theorem takeResponse_inputs : (takeResponse s).inputs = s.inputs := rfl

/-! sampleCommand -/

@[simp] theorem sampleCommand_x (c : CmdWord) (d : Word) : (sampleCommand c d s).x = s.x := rfl
@[simp] theorem sampleCommand_ksel (c : CmdWord) (d : Word) : (sampleCommand c d s).ksel = s.ksel := rfl
@[simp] theorem sampleCommand_poly (c : CmdWord) (d : Word) : (sampleCommand c d s).poly = s.poly := rfl
@[simp] theorem sampleCommand_gen (c : CmdWord) (d : Word) : (sampleCommand c d s).gen = s.gen := rfl
@[simp] theorem sampleCommand_lastCC (c : CmdWord) (d : Word) : (sampleCommand c d s).lastCC = s.lastCC := rfl
@[simp] theorem sampleCommand_err (c : CmdWord) (d : Word) : (sampleCommand c d s).err = s.err := rfl
@[simp] theorem sampleCommand_cfgValid (c : CmdWord) (d : Word) : (sampleCommand c d s).cfgValid = s.cfgValid := rfl
@[simp] theorem sampleCommand_lxValid (c : CmdWord) (d : Word) : (sampleCommand c d s).lxValid = s.lxValid := rfl
@[simp] theorem sampleCommand_rtValid (c : CmdWord) (d : Word) : (sampleCommand c d s).rtValid = s.rtValid := rfl
@[simp] theorem sampleCommand_rt (c : CmdWord) (d : Word) : (sampleCommand c d s).rt = s.rt := rfl
@[simp] theorem sampleCommand_log (c : CmdWord) (d : Word) : (sampleCommand c d s).log = s.log := rfl
@[simp] theorem sampleCommand_exp (c : CmdWord) (d : Word) : (sampleCommand c d s).exp = s.exp := rfl
@[simp] theorem sampleCommand_phase (c : CmdWord) (d : Word) : (sampleCommand c d s).phase = .busy := rfl
@[simp] theorem sampleCommand_pending (c : CmdWord) (d : Word) : (sampleCommand c d s).pending = none := rfl
@[simp] theorem sampleCommand_cmdWord (c : CmdWord) (d : Word) : (sampleCommand c d s).cmdWord = c := rfl
@[simp] theorem sampleCommand_cmdData (c : CmdWord) (d : Word) : (sampleCommand c d s).cmdData = d := rfl
@[simp] theorem sampleCommand_busyLeft (c : CmdWord) (d : Word) : (sampleCommand c d s).busyLeft = 0 := rfl
@[simp] theorem sampleCommand_accepted (c : CmdWord) (d : Word) : (sampleCommand c d s).accepted = s.accepted := rfl
@[simp] theorem sampleCommand_inputs (c : CmdWord) (d : Word) : (sampleCommand c d s).inputs = [] := rfl

/-! resetEdge -/

@[simp] theorem resetEdge_x : (resetEdge s).x = Vector.replicate 8 0 := rfl
@[simp] theorem resetEdge_ksel : (resetEdge s).ksel = .k4 := rfl
@[simp] theorem resetEdge_poly : (resetEdge s).poly = 0 := rfl
@[simp] theorem resetEdge_gen : (resetEdge s).gen = 0 := rfl
@[simp] theorem resetEdge_lastCC : (resetEdge s).lastCC = .ok := rfl
@[simp] theorem resetEdge_err : (resetEdge s).err = false := rfl
@[simp] theorem resetEdge_cfgValid : (resetEdge s).cfgValid = false := rfl
@[simp] theorem resetEdge_lxValid : (resetEdge s).lxValid = false := rfl
@[simp] theorem resetEdge_rtValid : (resetEdge s).rtValid = false := rfl
@[simp] theorem resetEdge_rt : (resetEdge s).rt = Vector.replicate 256 0 := rfl
@[simp] theorem resetEdge_log : (resetEdge s).log = Vector.replicate 256 0 := rfl
@[simp] theorem resetEdge_exp : (resetEdge s).exp = Vector.replicate 1024 0 := rfl
@[simp] theorem resetEdge_phase : (resetEdge s).phase = .idle := rfl
@[simp] theorem resetEdge_pending : (resetEdge s).pending = none := rfl
@[simp] theorem resetEdge_cmdWord : (resetEdge s).cmdWord = 0 := rfl
@[simp] theorem resetEdge_cmdData : (resetEdge s).cmdData = 0 := rfl
@[simp] theorem resetEdge_busyLeft : (resetEdge s).busyLeft = 0 := rfl
@[simp] theorem resetEdge_accepted : (resetEdge s).accepted = s.accepted := rfl
@[simp] theorem resetEdge_inputs : (resetEdge s).inputs = s.inputs := rfl

end Updates

/-! The responses of Safety.lean are the model's completions. -/

theorem okResponse_eq (v : Word) (s : State) : okResponse v s = completeOk v s := rfl

theorem okToRd_eq (rd : RegIdx) (v : Word) (s : State) : okToRd rd v s = completeWordToRd rd v s := rfl

theorem errorResponse_eq (c : CC) (s : State) : errorResponse c s = completeError c s := rfl

end Sys2Proof.Machine
end

