-- ==== Sys2Proof/Laws/Ops.lean ====
section
/-! SUPPORT. What each shared operation can do, said once: registers, checks, completions, builds. -/

namespace Sys2Proof.Machine

/-! ### Registers -/

/-- A register written reads back (R31). -/
@[simp] theorem readReg_writeReg_same (r : RegIdx) (v : Word) (s : State) :
    readReg r (writeReg r v s) = v := by
  simp [readReg]

/-- A write leaves every other register (R30: none aliases another). -/
theorem readReg_writeReg_ne {r r' : RegIdx} (h : r' ≠ r) (v : Word) (s : State) :
    readReg r' (writeReg r v s) = readReg r' s := by
  have h' : r.toNat ≠ r'.toNat := fun e => h (BitVec.eq_of_toNat_eq e.symm)
  simp [readReg, h']

/-- A completion with OK reads every register as before. -/
@[simp] theorem readReg_completeOk (r : RegIdx) (v : Word) (s : State) :
    readReg r (completeOk v s) = readReg r s := rfl

/-- An error completion reads every register as before. -/
@[simp] theorem readReg_completeError (r : RegIdx) (c : CC) (s : State) :
    readReg r (completeError c s) = readReg r s := rfl

/-- The destination of a completed command holds its result. -/
@[simp] theorem readReg_completeWordToRd_same (rd : RegIdx) (v : Word) (s : State) :
    readReg rd (completeWordToRd rd v s) = v := by
  simp [completeWordToRd]

/-- A completed command leaves every register but its destination. -/
theorem readReg_completeWordToRd_ne {rd r : RegIdx} (h : r ≠ rd) (v : Word) (s : State) :
    readReg r (completeWordToRd rd v s) = readReg r s := by
  simp [completeWordToRd, readReg_writeReg_ne h]

/-! ### Checks -/

@[simp] theorem needCfg_eq_none (s : State) : needCfg s = none ↔ s.cfgValid = true := by
  simp [needCfg]

@[simp] theorem needCfg_eq_some (s : State) (c : CC) :
    needCfg s = some c ↔ s.cfgValid = false ∧ c = .nocfg := by
  cases h : s.cfgValid <;> simp [needCfg, h, eq_comm]

@[simp] theorem needOrder_eq_none (k : KSel) (s : State) : needOrder k s = none ↔ s.ksel = k := by
  simp [needOrder]

@[simp] theorem needOrder_eq_some (k : KSel) (s : State) (c : CC) :
    needOrder k s = some c ↔ s.ksel ≠ k ∧ c = .width := by
  by_cases h : s.ksel = k <;> simp [needOrder, h, eq_comm]

@[simp] theorem needBelow_eq_none (n v : Nat) : needBelow n v = none ↔ v < n := by
  simp [needBelow]

@[simp] theorem needBelow_eq_some (n v : Nat) (c : CC) :
    needBelow n v = some c ↔ n ≤ v ∧ c = .operand := by
  by_cases h : v < n
  · simp [needBelow, h]
  · simp [needBelow, h, Nat.le_of_not_lt h, eq_comm]

@[simp] theorem needLx_eq_none (s : State) : needLx s = none ↔ s.lxValid = true := by
  simp [needLx]

@[simp] theorem needLx_eq_some (s : State) (c : CC) :
    needLx s = some c ↔ s.lxValid = false ∧ c = .table := by
  cases h : s.lxValid <;> simp [needLx, h, eq_comm]

@[simp] theorem needRt_eq_none (s : State) : needRt s = none ↔ s.rtValid = true := by
  simp [needRt]

@[simp] theorem needRt_eq_some (s : State) (c : CC) :
    needRt s = some c ↔ s.rtValid = false ∧ c = .table := by
  cases h : s.rtValid <;> simp [needRt, h, eq_comm]

@[simp] theorem needElement_eq_none (r : RegIdx) (s : State) :
    needElement r s = none ↔ operand r s < 2 ^ order s := by
  simp [needElement]

@[simp] theorem needElement_eq_some (r : RegIdx) (s : State) (c : CC) :
    needElement r s = some c ↔ 2 ^ order s ≤ operand r s ∧ c = .operand := by
  simp [needElement]

@[simp] theorem needDouble_eq_none (r : RegIdx) (s : State) :
    needDouble r s = none ↔ operand r s < 2 ^ doubleWidthOf s.ksel := by
  simp [needDouble]

@[simp] theorem needDouble_eq_some (r : RegIdx) (s : State) (c : CC) :
    needDouble r s = some c ↔ 2 ^ doubleWidthOf s.ksel ≤ operand r s ∧ c = .operand := by
  simp [needDouble]

@[simp] theorem firstError_nil : firstError [] = none := rfl

/-- Checks pass together exactly if each does. -/
@[simp] theorem firstError_cons_eq_none (d : Option CC) (cs : List (Option CC)) :
    firstError (d :: cs) = none ↔ d = none ∧ firstError cs = none := by
  cases d <;> simp [firstError]

/-- The priority order of R224: a later check speaks only where the earlier ones pass. -/
@[simp] theorem firstError_cons_eq_some (d : Option CC) (cs : List (Option CC)) (c : CC) :
    firstError (d :: cs) = some c ↔ d = some c ∨ (d = none ∧ firstError cs = some c) := by
  cases d <;> simp [firstError]

/-- A list of checks raises nothing exactly if none of them does. -/
theorem firstError_eq_none (cs : List (Option CC)) :
    firstError cs = none ↔ ∀ c ∈ cs, c = none := by
  induction cs with
  | nil => simp [firstError]
  | cons c cs ih => cases c <;> simp [firstError, ih]

/-- The first error of a list is one of its checks' (R224). -/
theorem firstError_mem {cs : List (Option CC)} {c : CC} (h : firstError cs = some c) :
    some c ∈ cs := by
  induction cs with
  | nil => simp [firstError] at h
  | cons d cs ih =>
    cases d with
    | none => exact List.mem_cons_of_mem _ (ih h)
    | some d => simp_all [firstError]

/-- The checks of Operands.lean raise NOCFG, WIDTH, OPERAND or TABLE, never OK. -/
theorem firstError_ne_ok {cs : List (Option CC)} {c : CC}
    (hc : ∀ d ∈ cs, d ≠ some .ok) (h : firstError cs = some c) : c ≠ .ok := by
  rintro rfl
  exact hc _ (firstError_mem h) rfl

/-- Everything a guarded command can do: its outcome if no check raises, or the error completion of the
first check that does (R223, R224). -/
theorem guarded_cases {cs : List (Option CC)} {s t u : State} (h : guarded cs s t = .next u) :
    (firstError cs = none ∧ u = t) ∨ ∃ c, firstError cs = some c ∧ u = completeError c s := by
  unfold guarded at h
  split at h <;> rename_i hf
  · exact .inr ⟨_, hf, by simpa using h.symm⟩
  · exact .inl ⟨hf, by simpa using h.symm⟩

/-- A guarded command whose checks all pass has its outcome. -/
theorem guarded_of_pass {cs : List (Option CC)} (s t : State) (h : firstError cs = none) :
    guarded cs s t = .next t := by
  simp [guarded, h]

/-- A guarded command whose checks raise c ends with c. -/
theorem guarded_of_error {cs : List (Option CC)} (s t : State) {c : CC}
    (h : firstError cs = some c) : guarded cs s t = .next (completeError c s) := by
  simp [guarded, h]

/-- A guarded command always answers a next state. -/
theorem guarded_next (cs : List (Option CC)) (s t : State) : ∃ u, guarded cs s t = .next u := by
  unfold guarded
  split <;> exact ⟨_, rfl⟩

/-! ### Completions and builds -/

/-- What INV and DIV complete with: the loop's answer in rd, or NOT_INVERTIBLE (R135, R136). -/
theorem completeInverse_cases (rd : RegIdx) (r : Option Nat) (s : State) :
    (∃ v, r = some v ∧ completeInverse rd r s = completeToRd rd v s) ∨
      (r = none ∧ completeInverse rd r s = completeError .notInvertible s) := by
  cases r with
  | none => exact .inr ⟨rfl, rfl⟩
  | some v => exact .inl ⟨v, rfl, rfl⟩

/-- What BLDLX completes with past its checks (R163). -/
theorem buildLogExp_cases (g : Nat) (s : State) :
    (generatorCheck (polyNat s) g = true ∧ buildLogExp g s =
      completeOk 0 { s with log := logTable (polyNat s) g, exp := expTable (polyNat s) g,
                            lxValid := true, gen := BitVec.ofNat 8 g }) ∨
    (generatorCheck (polyNat s) g = false ∧ buildLogExp g s =
      completeError .notGenerator { s with lxValid := false, gen := 0 }) := by
  cases h : generatorCheck (polyNat s) g
  · exact .inr ⟨rfl, by simp [buildLogExp, h]⟩
  · exact .inl ⟨rfl, by simp [buildLogExp, h]⟩

end Sys2Proof.Machine
end

