-- ==== Sys2Proof/Laws/Exec.lean ====
section
/-! SUPPORT. What exec can do, said once for all commands. -/

namespace Sys2Proof.Machine

/-- Everything a command can do: an error completion, a result in its destination, the completions of
NOP, CLRST and CFG, or a table build, each with what must hold for it. -/
theorem exec_cases {i : Instr} {s t : State} (h : exec i s = .next t) :
    (∃ c, c ≠ .ok ∧ c ≠ .notGenerator ∧ t = completeError c s) ∨
    (∃ rd v, destination i = some rd ∧ t = completeWordToRd rd v s) ∨
    (i = .nop ∧ t = completeOk 0 s) ∨
    (i = .clrst ∧ t = completeOk 0 { s with err := false }) ∨
    (∃ k r, i = .cfg k r ∧ operand r s < 2 ^ kselOrder k ∧
      t = completeOk 0 (configureField k (operand r s) s)) ∨
    (∃ r, i = .bldlx r ∧ s.cfgValid = true ∧ s.ksel = .k8 ∧ operand r s < 256 ∧
      t = buildLogExp (operand r s) s) ∨
    (i = .bldrt ∧ s.cfgValid = true ∧ s.ksel = .k16 ∧ t = buildRt s) := by
  cases i
  case nop => cases h; simp
  case clrst => cases h; simp
  case ldi => cases h; right; left; exact ⟨_, _, rfl, rfl⟩
  case mov => cases h; right; left; exact ⟨_, _, rfl, rfl⟩
  case rdcsr =>
    simp only [exec, execRdcsr] at h
    split at h <;> cases h
    · right; left; exact ⟨_, _, rfl, rfl⟩
    · left; exact ⟨_, by simp, by simp, rfl⟩
  all_goals
    rcases guarded_cases h with ⟨hf, rfl⟩ | ⟨c, hc, rfl⟩
    rotate_left
    · left
      refine ⟨c, ?_, ?_, rfl⟩ <;> rintro rfl <;> have := firstError_mem hc <;>
        simp only [List.mem_cons, List.not_mem_nil, or_false, eq_comm (a := some CC.ok),
          eq_comm (a := some CC.notGenerator), needCfg_eq_some, needElement_eq_some,
          needDouble_eq_some, needBelow_eq_some, needOrder_eq_some, needLx_eq_some,
          needRt_eq_some] at this <;> simp_all
  all_goals simp only [firstError_cons_eq_none, needCfg_eq_none, needOrder_eq_none,
    needBelow_eq_none] at hf
  case inv.inl =>
    rcases completeInverse_cases _ _ s with ⟨v, h1, h2⟩ | ⟨h1, h2⟩
    · right; left; exact ⟨_, _, rfl, h2⟩
    · left; exact ⟨_, by simp, by simp, h2⟩
  case div.inl =>
    rcases completeInverse_cases _ _ s with ⟨v, h1, h2⟩ | ⟨h1, h2⟩
    · right; left; exact ⟨_, _, rfl, h2⟩
    · left; exact ⟨_, by simp, by simp, h2⟩
  case cfg.inl => right; right; right; right; left; exact ⟨_, _, rfl, hf.1, rfl⟩
  case bldlx.inl => right; right; right; right; right; left; exact ⟨_, rfl, hf.1, hf.2.1, hf.2.2.1, rfl⟩
  case bldrt.inl => right; right; right; right; right; right; exact ⟨rfl, hf.1, hf.2.1, rfl⟩
  all_goals (right; left; exact ⟨_, _, rfl, rfl⟩)

end Sys2Proof.Machine
end

