-- ==== Sys2Proof/Laws/Loops.lean ====
section
/-! SUPPORT. The loops of Gf.lean end within their bounds (log 10): the reduction of R134 at a value
below 2^k, the Euclidean loop of R135 at u = 0 or u = 1. -/

namespace Sys2Proof.Machine

/-! ### Degrees -/

@[simp] theorem deg_zero : deg 0 = -1 := rfl

/-- deg is log2 on non-zero values. -/
theorem deg_of_ne_zero {v : Nat} (h : v ≠ 0) : deg v = (v.log2 : Int) := by simp [deg, h]

/-- deg(v) < d says v < 2^d. -/
theorem deg_lt_iff (v d : Nat) : deg v < (d : Int) ↔ v < 2 ^ d := by
  by_cases h : v = 0
  · subst h
    simp only [deg_zero]
    exact ⟨fun _ => by positivity, fun _ => by omega⟩
  · rw [deg_of_ne_zero h, Int.ofNat_lt, Nat.log2_lt h]

/-- d ≤ deg(v) says 2^d ≤ v. -/
theorem le_deg_iff (v d : Nat) : (d : Int) ≤ deg v ↔ 2 ^ d ≤ v := by
  have := deg_lt_iff v d
  constructor <;> intro h <;> by_contra hc <;> omega

/-- Two values of one degree d add to a value below 2^d. -/
theorem xor_lt_of_log2_eq {x y : Nat} (hx : x ≠ 0) (hy : y ≠ 0) (h : x.log2 = y.log2) :
    x ^^^ y < 2 ^ x.log2 := by
  refine Nat.lt_pow_two_of_testBit _ fun i hi => ?_
  rw [Nat.testBit_xor]
  rcases hi.eq_or_lt with rfl | hlt
  · rw [Nat.testBit_log2 hx, h, Nat.testBit_log2 hy]
    rfl
  · have hx' : x < 2 ^ i := (Nat.log2_lt hx).1 hlt
    have hy' : y < 2 ^ i := (Nat.log2_lt hy).1 (h ▸ hlt)
    rw [Nat.testBit_lt_two_pow hx', Nat.testBit_lt_two_pow hy']
    rfl

/-- A shift by i raises a degree by i. -/
theorem log2_shiftLeft_of_ne_zero {v : Nat} (h : v ≠ 0) (i : Nat) :
    (v <<< i).log2 = v.log2 + i := by
  have hs : v <<< i ≠ 0 := by
    rw [Nat.shiftLeft_eq]
    exact Nat.mul_ne_zero h (by positivity)
  rw [Nat.log2_eq_iff hs, Nat.shiftLeft_eq, Nat.pow_add, Nat.add_right_comm, Nat.pow_add]
  exact ⟨Nat.mul_le_mul_right _ (Nat.log2_self_le h),
    Nat.mul_lt_mul_of_pos_right Nat.lt_log2_self (by positivity)⟩

/-- A shifted non-zero value is not zero. -/
theorem shiftLeft_ne_zero {v : Nat} (h : v ≠ 0) (i : Nat) : v <<< i ≠ 0 := by
  rw [Nat.shiftLeft_eq]
  exact Nat.mul_ne_zero h (by positivity)

/-- FULL_POLY lies in [2^k, 2^(k+1)). -/
theorem fullPolyOf_bounds {k poly : Nat} (h : poly < 2 ^ k) :
    2 ^ k ≤ fullPolyOf k poly ∧ fullPolyOf k poly < 2 ^ (k + 1) :=
  ⟨Nat.right_le_or, Nat.or_lt_two_pow (h.trans (by rw [Nat.pow_succ]; omega))
    (by rw [Nat.pow_succ]; have := Nat.two_pow_pos k; omega)⟩

/-- FULL_POLY has degree k. -/
theorem fullPolyOf_log2 {k poly : Nat} (h : poly < 2 ^ k) :
    fullPolyOf k poly ≠ 0 ∧ (fullPolyOf k poly).log2 = k := by
  obtain ⟨h1, h2⟩ := fullPolyOf_bounds h
  have hne : fullPolyOf k poly ≠ 0 := by have := Nat.two_pow_pos k; omega
  exact ⟨hne, (Nat.log2_eq_iff hne).2 ⟨h1, h2⟩⟩

/-! ### The reduction of R134 -/

/-- One turn of R134's loop lowers the degree. -/
theorem reduce_turn_deg_lt {k poly x : Nat} (hp : poly < 2 ^ k) (hx : 2 ^ k ≤ x) :
    deg (x ^^^ (fullPolyOf k poly <<< (deg x - k).toNat)) < deg x := by
  obtain ⟨hf, hl⟩ := fullPolyOf_log2 hp
  have hx0 : x ≠ 0 := by have := Nat.two_pow_pos k; omega
  have hk : k ≤ x.log2 := (Nat.le_log2 hx0).2 hx
  rw [deg_of_ne_zero hx0, deg_lt_iff]
  have hi : ((x.log2 : Int) - k).toNat = x.log2 - k := by omega
  rw [hi]
  apply xor_lt_of_log2_eq hx0 (shiftLeft_ne_zero hf _)
  rw [log2_shiftLeft_of_ne_zero hf, hl]
  omega

/-- More turns than the degree asks for change nothing. -/
theorem gfReduceLoop_stable {k poly : Nat} (hp : poly < 2 ^ k) (n m x : Nat)
    (hn : deg x - k + 1 ≤ n) (hm : deg x - k + 1 ≤ m) :
    gfReduceLoop k poly n x = gfReduceLoop k poly m x := by
  induction n generalizing m x with
  | zero =>
    have hx : x < 2 ^ k := (deg_lt_iff x k).1 (by omega)
    cases m with
    | zero => rfl
    | succ m => simp [gfReduceLoop, polyBitOf, Nat.not_le.2 hx]
  | succ n ih =>
    by_cases hx : 2 ^ k ≤ x
    · have hd := reduce_turn_deg_lt hp hx
      have hk := (le_deg_iff x k).2 hx
      cases m with
      | zero => omega
      | succ m =>
        simp only [gfReduceLoop, polyBitOf, hx, if_true]
        exact ih m _ (by omega) (by omega)
    · cases m with
      | zero => simp [gfReduceLoop, polyBitOf, hx]
      | succ m => simp [gfReduceLoop, polyBitOf, hx]

/-- R134's loop, unrolled once: MODR of a value at or above POLY_BIT is MODR of the next value. -/
theorem gfReduce_turn {k poly x : Nat} (hp : poly < 2 ^ k) (hx : 2 ^ k ≤ x) :
    gfReduce k poly x = gfReduce k poly (x ^^^ (fullPolyOf k poly <<< (deg x - k).toNat)) := by
  have hd := reduce_turn_deg_lt hp hx
  have hk := (le_deg_iff x k).2 hx
  obtain ⟨n, hn⟩ : ∃ n : Nat, (deg x - k + 1).toNat = n + 1 := ⟨(deg x - k).toNat, by omega⟩
  rw [gfReduce, hn, gfReduceLoop, if_pos (show polyBitOf k ≤ x from hx), gfReduce]
  exact gfReduceLoop_stable hp _ _ _ (by omega) (by omega)

/-- A value below 2^k is its own remainder (R134). -/
theorem gfReduce_of_lt {k poly x : Nat} (hx : x < 2 ^ k) : gfReduce k poly x = x := by
  have := (deg_lt_iff x k).2 hx
  have h0 : (deg x - k + 1).toNat = 0 := by omega
  rw [gfReduce, h0, gfReduceLoop]

/-- The loop of R134 ends below 2^k, with as many turns as the degree asks for. -/
theorem gfReduceLoop_lt {k poly : Nat} (hp : poly < 2 ^ k) (n x : Nat) (hn : deg x - k + 1 ≤ n) :
    gfReduceLoop k poly n x < 2 ^ k := by
  induction n generalizing x with
  | zero => exact (deg_lt_iff x k).1 (by omega)
  | succ n ih =>
    by_cases hx : 2 ^ k ≤ x
    · have hd := reduce_turn_deg_lt hp hx
      simp only [gfReduceLoop, polyBitOf, hx, if_true]
      exact ih _ (by omega)
    · simp only [gfReduceLoop, polyBitOf, hx, if_false]
      omega

/-- MODR results are below 2^k (R139). -/
theorem gfReduce_lt {k poly : Nat} (hp : poly < 2 ^ k) (x : Nat) : gfReduce k poly x < 2 ^ k :=
  gfReduceLoop_lt hp _ _ (by omega)

/-! ### The Euclidean loop of R135 -/

/-- A value above 1 has degree at least 1. -/
theorem one_le_deg {v : Nat} (h : 2 ≤ v) : 1 ≤ deg v := (le_deg_iff v 1).2 (by simpa using h)

/-- The shifted addition of one turn, for deg(v) ≤ deg(u), lowers deg(u). -/
theorem euclid_add_deg_lt {u v : Nat} (hu : u ≠ 0) (hv : v ≠ 0) (h : deg v ≤ deg u) :
    deg (u ^^^ (v <<< (deg u - deg v).natAbs)) < deg u := by
  rw [deg_of_ne_zero hu, deg_of_ne_zero hv] at *
  rw [deg_lt_iff]
  apply xor_lt_of_log2_eq hu (shiftLeft_ne_zero hv _)
  rw [log2_shiftLeft_of_ne_zero hv]
  omega

/-- One turn keeps v above 1 and lowers deg(u) + deg(v) (R135). -/
theorem euclidTurn_lowers {e : Euclid} (hu : 2 ≤ e.u) (hv : 2 ≤ e.v) :
    2 ≤ (euclidTurn e).v ∧
      deg (euclidTurn e).u + deg (euclidTurn e).v < deg e.u + deg e.v := by
  by_cases hi : deg e.u - deg e.v < 0
  · have h := euclid_add_deg_lt (u := e.v) (v := e.u) (by omega) (by omega) (by omega)
    have hn : (deg e.u - deg e.v).natAbs = (deg e.v - deg e.u).natAbs := by omega
    simp only [euclidTurn, hi, if_true, hn]
    exact ⟨hu, by omega⟩
  · have h := euclid_add_deg_lt (u := e.u) (v := e.v) (by omega) (by omega) (by omega)
    simp only [euclidTurn, hi, if_false]
    exact ⟨hv, by omega⟩

/-- From v above 1, the loop has reached u = 0 or u = 1 within n turns if deg(u) + deg(v) ≤ n + 1: it
never ends for want of turns. -/
theorem euclidLoop_ends (n : Nat) (e : Euclid) (hv : 2 ≤ e.v) (hn : deg e.u + deg e.v ≤ n + 1) :
    ∃ m, m ≤ n ∧ ((euclidTurn^[m] e).u = 0 ∨ (euclidTurn^[m] e).u = 1) ∧
      euclidLoop n e = if (euclidTurn^[m] e).u = 1 then some (euclidTurn^[m] e).z else none := by
  induction n generalizing e with
  | zero =>
    have := one_le_deg hv
    have hu : ¬ 2 ≤ e.u := fun h => by have := one_le_deg h; omega
    exact ⟨0, le_rfl, by simp only [Function.iterate_zero, id]; omega, rfl⟩
  | succ n ih =>
    by_cases h1 : e.u = 1
    · exact ⟨0, by omega, .inr h1, by simp [euclidLoop, h1]⟩
    by_cases h0 : e.u = 0
    · exact ⟨0, by omega, .inl h0, by simp [euclidLoop, h0]⟩
    obtain ⟨hv', hd⟩ := euclidTurn_lowers (e := e) (by omega) hv
    obtain ⟨m, hm, hend, hloop⟩ := ih (euclidTurn e) hv' (by push_cast at hn; omega)
    refine ⟨m + 1, by omega, ?_, ?_⟩
    · rwa [Function.iterate_succ_apply]
    · rwa [Function.iterate_succ_apply, euclidLoop, if_neg h1, if_neg h0]

/-- INV's loop ends within the 2k-1 turns of R135, for every element a above 1. -/
theorem gfInv_loop_ends {k poly a : Nat} (hp : poly < 2 ^ k) (ha : 2 ≤ a) (hk : a < 2 ^ k) :
    ∃ m, m ≤ 2 * k - 1 ∧
      ((euclidTurn^[m] ⟨fullPolyOf k poly, 0, a, 1⟩).u = 0 ∨
        (euclidTurn^[m] ⟨fullPolyOf k poly, 0, a, 1⟩).u = 1) := by
  obtain ⟨hf, hl⟩ := fullPolyOf_log2 hp
  have hd := (deg_lt_iff a k).2 hk
  have h1 := one_le_deg ha
  have hu : deg (fullPolyOf k poly) = k := by rw [deg_of_ne_zero hf, hl]
  obtain ⟨m, hm, hend, -⟩ := euclidLoop_ends (2 * k - 1) ⟨fullPolyOf k poly, 0, a, 1⟩ ha
    (by simp only [hu]; omega)
  exact ⟨m, hm, hend⟩

end Sys2Proof.Machine
end

