-- ==== Sys2Proof/Laws/PerInstr.lean ====
section
/-! SUPPORT. What holds of every command as syntax, one lemma a constructor. -/

namespace Sys2Proof.Laws.EncodeMatchesRow

/-- The command word of a command matches its row of R86: OP is the row's opcode, the word under the
row's mask is that opcode, and the row is one of the table's. -/
def Statement (i : Instr) : Prop :=
  fieldOp (encodeCmd i) = opcodeOf i ∧
    encodeCmd i &&& formatMask (formatOf i) = (opcodeOf i).setWidth 32 ∧
    (opcodeOf i, formatMask (formatOf i)) ∈ Machine.opcodeRows

theorem nop : Statement .nop := by
  unfold Statement
  decide +kernel

theorem ldi (rd : RegIdx) (imm : Word) : Statement (.ldi rd imm) := by
  have h : ∀ r, Statement (.ldi r 0) := by
    unfold Statement
    decide +kernel
  exact h rd

theorem mov (rd rs1 : RegIdx) : Statement (.mov rd rs1) := by
  unfold Statement
  revert rd rs1
  decide +kernel

theorem rdcsr (rd : RegIdx) (csr : CsrIdx) : Statement (.rdcsr rd csr) := by
  unfold Statement
  revert rd csr
  decide +kernel

theorem cfg (ksel : KSel) (rs1 : RegIdx) : Statement (.cfg ksel rs1) := by
  unfold Statement
  cases ksel <;> revert rs1 <;> decide +kernel

theorem clrst : Statement .clrst := by
  unfold Statement
  decide +kernel

theorem add (rd rs1 rs2 : RegIdx) : Statement (.add rd rs1 rs2) := by
  unfold Statement
  revert rd rs1 rs2
  decide +kernel

theorem mul (rd rs1 rs2 : RegIdx) : Statement (.mul rd rs1 rs2) := by
  unfold Statement
  revert rd rs1 rs2
  decide +kernel

theorem mull (rd rs1 rs2 : RegIdx) : Statement (.mull rd rs1 rs2) := by
  unfold Statement
  revert rd rs1 rs2
  decide +kernel

theorem modr (rd rs1 : RegIdx) : Statement (.modr rd rs1) := by
  unfold Statement
  revert rd rs1
  decide +kernel

theorem inv (rd rs1 : RegIdx) : Statement (.inv rd rs1) := by
  unfold Statement
  revert rd rs1
  decide +kernel

theorem div (rd rs1 rs2 : RegIdx) : Statement (.div rd rs1 rs2) := by
  unfold Statement
  revert rd rs1 rs2
  decide +kernel

theorem pow (rd rs1 rs2 : RegIdx) : Statement (.pow rd rs1 rs2) := by
  unfold Statement
  revert rd rs1 rs2
  decide +kernel

theorem bldlx (rs1 : RegIdx) : Statement (.bldlx rs1) := by
  unfold Statement
  revert rs1
  decide +kernel

theorem logrd (rd rs1 : RegIdx) : Statement (.logrd rd rs1) := by
  unfold Statement
  revert rd rs1
  decide +kernel

theorem exprd (rd rs1 : RegIdx) : Statement (.exprd rd rs1) := by
  unfold Statement
  revert rd rs1
  decide +kernel

theorem mulx (rd rs1 rs2 : RegIdx) : Statement (.mulx rd rs1 rs2) := by
  unfold Statement
  revert rd rs1 rs2
  decide +kernel

theorem invx (rd rs1 : RegIdx) : Statement (.invx rd rs1) := by
  unfold Statement
  revert rd rs1
  decide +kernel

theorem powx (rd rs1 rs2 : RegIdx) : Statement (.powx rd rs1 rs2) := by
  unfold Statement
  revert rd rs1 rs2
  decide +kernel

theorem nbm (rd rs1 rs2 : RegIdx) : Statement (.nbm rd rs1 rs2) := by
  unfold Statement
  revert rd rs1 rs2
  decide +kernel

theorem bldrt : Statement .bldrt := by
  unfold Statement
  decide +kernel

theorem rtrd (rd rs1 : RegIdx) : Statement (.rtrd rd rs1) := by
  unfold Statement
  revert rd rs1
  decide +kernel

theorem msl8 (rd rs1 : RegIdx) : Statement (.msl8 rd rs1) := by
  unfold Statement
  revert rd rs1
  decide +kernel

theorem modrb (rd rs1 : RegIdx) : Statement (.modrb rd rs1) := by
  unfold Statement
  revert rd rs1
  decide +kernel

theorem muld (rd rs1 rs2 : RegIdx) : Statement (.muld rd rs1 rs2) := by
  unfold Statement
  revert rd rs1 rs2
  decide +kernel

end Sys2Proof.Laws.EncodeMatchesRow
end

