-- ==== Sys2Proof/Laws/Port.lean ====
section
/-! SUPPORT. What one rising edge of clk can do, said once (R81, R82, R251). -/

namespace Sys2Proof.Machine

/-- A quiet edge drives rst = 0. -/
@[simp] theorem quiet_rst : Pins.quiet.rst = false := rfl

/-- The head sample is the next edge's pins. -/
@[simp] theorem edgePins_cons {s : State} {p : Pins} {ps : List Pins} (h : s.inputs = p :: ps) :
    edgePins s = p := by
  simp [edgePins, h]

/-- With no sample to come, nothing is driven. -/
@[simp] theorem edgePins_nil {s : State} (h : s.inputs = []) : edgePins s = .quiet := by
  simp [edgePins, h]

/-- Everything a step can do: reset, accept a command or stay in IDLE, wait in BUSY or run the sampled
command, hold or hand over the response. -/
theorem step_cases {s t : State} (h : step s = .next t) :
    ((edgePins s).rst = true ∧ t = resetEdge (passEdge s)) ∨
    ((edgePins s).rst = false ∧ s.phase = .idle ∧ (edgePins s).cmdValid = true ∧
      t = acceptCommand (edgePins s) (passEdge s)) ∨
    ((edgePins s).rst = false ∧ s.phase = .idle ∧ (edgePins s).cmdValid = false ∧ t = passEdge s) ∨
    ((edgePins s).rst = false ∧ s.phase = .busy ∧ s.busyLeft = 0 ∧
      runSampled (passEdge s) = .next t) ∨
    ((edgePins s).rst = false ∧ s.phase = .busy ∧ s.busyLeft ≠ 0 ∧ t = waitBusy (passEdge s)) ∨
    ((edgePins s).rst = false ∧ s.phase = .respond ∧ (edgePins s).rspReady = true ∧
      t = takeResponse (passEdge s)) ∨
    ((edgePins s).rst = false ∧ s.phase = .respond ∧ (edgePins s).rspReady = false ∧
      t = passEdge s) := by
  unfold step clockEdge at h
  cases hr : (edgePins s).rst
  · cases hp : s.phase <;> simp only [hr, passEdge_phase, hp, passEdge_busyLeft] at h
    · cases hv : (edgePins s).cmdValid <;>
        simp_all [commandTransfers, cmdReady]
    · by_cases hb : s.busyLeft = 0 <;> simp_all
    · cases hv : (edgePins s).rspReady <;>
        simp_all [responseTransfers, rspValid]
  · simp_all

/-- Everything the sampled words can do: an error completion with ILLEGAL, or the command they decode
to (R88). -/
theorem runSampled_cases {s t : State} (h : runSampled s = .next t) :
    ((∃ e, decode s.cmdWord s.cmdData = .error e) ∧ t = completeError .illegal s) ∨
      ∃ i, decode s.cmdWord s.cmdData = .ok i ∧ exec i s = .next t := by
  unfold runSampled at h
  split at h <;> rename_i hd
  · exact .inr ⟨_, hd, h⟩
  · exact .inl ⟨⟨_, hd⟩, by simpa using h.symm⟩

/-! ### The latency -/

/-- States that differ only in hidden table contents look the same to the latency (R40 to R42). -/
theorem latencyView_of_sameButHidden {s t : State} (h : SameButHidden s t) :
    latencyView t = latencyView s := by
  obtain ⟨he, hr, hl⟩ := h
  cases s
  rw [he]
  simp only at hr hl
  simp only [latencyView, State.mk.injEq, true_and]
  refine ⟨?_, ?_, ?_, trivial⟩ <;> split
  · exact hr ‹_›
  · rfl
  · exact (hl ‹_›).1
  · rfl
  · exact (hl ‹_›).2
  · rfl

/-! ### Runs of edges -/

/-- A run of no edges. -/
@[simp] theorem run_zero (s : State) : core.run 0 s = .next s := rfl

/-- A run whose first edge answers t goes on from t. -/
theorem run_succ_of_next {n : Nat} {s t : State} (h : step s = .next t) :
    core.run (n + 1) s = core.run n t := by
  have h' : core.step s = .next t := h
  rw [Host.Core.run.eq_2 core s n, h']

/-- What holds of the next n + 1 samples, and of the quiet pins, holds at the next edge. -/
theorem edgePins_of_take {n : Nat} {s : State} {P : Pins → Prop} (hq : P .quiet)
    (h : ∀ p ∈ s.inputs.take (n + 1), P p) : P (edgePins s) := by
  unfold edgePins
  cases hi : s.inputs with
  | nil => exact hq
  | cons p ps => exact h p (by simp [hi])

/-- What holds of the next n + 1 samples holds of n samples past the next edge. -/
theorem passEdge_of_take {n : Nat} {s : State} {P : Pins → Prop}
    (h : ∀ p ∈ s.inputs.take (n + 1), P p) : ∀ p ∈ (passEdge s).inputs.take n, P p := by
  intro p hp
  apply h
  cases hi : s.inputs with
  | nil => simp [hi] at hp
  | cons q qs => simp [hi] at hp ⊢; exact .inr hp

end Sys2Proof.Machine
end

