-- ==== Sys2Proof/Laws/Tables.lean ====
section
/-! SUPPORT. The entries of the built tables, one lemma a table. -/

namespace Sys2Proof.Machine

/-- Entry i of a run of powers: p times g, i times. -/
theorem powersFrom_getElem? (poly g n p i : Nat) (h : i < n) :
    (powersFrom poly g n p)[i]? = some (((fun q => gfMul 8 poly q g)^[i]) p) := by
  induction n generalizing p i with
  | zero => omega
  | succ n ih =>
    cases i with
    | zero => rfl
    | succ i => simpa [powersFrom, Function.iterate_succ_apply] using ih _ i (by omega)

/-- mulPower is the iterated product. -/
theorem mulPower_eq_iterate (poly g i : Nat) :
    mulPower 8 poly g i = ((fun q => gfMul 8 poly q g)^[i]) 1 := by
  induction i with
  | zero => rfl
  | succ i ih => rw [Function.iterate_succ_apply', ← ih, mulPower]

/-- gp(i), the i-th of the 256 powers (R162). -/
theorem gpowers_getElem? (poly g i : Nat) (h : i < 256) :
    (gpowers poly g)[i]? = some (mulPower 8 poly g i) := by
  rw [gpowers, powersFrom_getElem? _ _ _ _ _ h, mulPower_eq_iterate]

/-- Entry i of RT (R191). -/
theorem rtTable_getElem? (poly i : Nat) (h : i < 256) :
    (rtTable poly)[i]? = some (BitVec.ofNat 16 (gfReduce 16 poly (i <<< 16))) := by
  simp [rtTable, h]

/-- Entry x of LOG (R162). -/
theorem logTable_getElem? (poly g x : Nat) (h : x < 256) :
    (logTable poly g)[x]? = some (logEntry ((gpowers poly g).take 255) x) := by
  simp [logTable, h]

/-- Entry j of EXP (R162). -/
theorem expTable_getElem? (poly g j : Nat) :
    (expTable poly g)[j]? = (expEntries poly g)[j]?.map (BitVec.ofNat 8) := by
  simp [expTable]

end Sys2Proof.Machine
end

