-- ==== Sys2Proof/Tests/Slice0.lean ====
section
/-! SUPPORT. Tests: words written out from R83 to R86, one step of each command on the vectors of
95_test_vectors.md, and a state that meets the hypotheses of each statement. -/

-- Each theorem below is a kernel evaluation; one after the other they need one thread.
set_option Elab.async false

namespace Sys2Proof.Tests

open Sys2Proof Sys2Proof.Machine

/-! ### WellFormed -/

/-- CSR numbers 9..15 are reserved (R33): the one check of WellFormed refuses them. -/
theorem test_wellFormed_refuses_reserved_csr : (Instr.rdcsr 4 9).wellFormed = false := by decide

theorem test_wellFormed_accepts_gen : (Instr.rdcsr 4 8).wellFormed = true := by decide

/-! ### Decoding: RSV_FN_RS2_RS1_RD_OP, bit 31 leftmost (R83, R85, R86) -/

theorem test_decode_nop : decode 0b00000000000_0000_000_000_000_00000000#32 0x1234 = .ok .nop := by decide
theorem test_decode_ldi : decode 0b00000000000_0000_000_000_001_00000001#32 0x53 = .ok (.ldi 1 0x53) := by decide
theorem test_decode_mov : decode 0b00000000000_0000_000_010_101_00000010#32 0 = .ok (.mov 5 2) := by decide
theorem test_decode_rdcsr : decode 0b00000000000_0100_000_000_100_00000011#32 0 = .ok (.rdcsr 4 4) := by decide
theorem test_decode_cfg : decode 0b00000000000_0001_000_001_000_00000100#32 0 = .ok (.cfg .k8 1) := by decide
theorem test_decode_clrst : decode 0b00000000000_0000_000_000_000_00000101#32 0 = .ok .clrst := by decide
theorem test_decode_add : decode 0b00000000000_0000_111_100_000_00010000#32 0 = .ok (.add 0 4 7) := by decide
theorem test_decode_mul : decode 0b00000000000_0000_010_001_011_00010001#32 0 = .ok (.mul 3 1 2) := by decide
theorem test_decode_mull : decode 0b00000000000_0000_011_010_110_00010010#32 0 = .ok (.mull 6 2 3) := by decide
theorem test_decode_modr : decode 0b00000000000_0000_000_101_110_00010011#32 0 = .ok (.modr 6 5) := by decide
theorem test_decode_inv : decode 0b00000000000_0000_000_010_011_00010100#32 0 = .ok (.inv 3 2) := by decide
theorem test_decode_div : decode 0b00000000000_0000_010_100_101_00010101#32 0 = .ok (.div 5 4 2) := by decide
theorem test_decode_pow : decode 0b00000000000_0000_100_011_110_00010110#32 0 = .ok (.pow 6 3 4) := by decide
theorem test_decode_bldlx : decode 0b00000000000_0000_000_001_000_00100000#32 0 = .ok (.bldlx 1) := by decide
theorem test_decode_logrd : decode 0b00000000000_0000_000_001_010_00100001#32 0 = .ok (.logrd 2 1) := by decide
theorem test_decode_exprd : decode 0b00000000000_0000_000_001_010_00100010#32 0 = .ok (.exprd 2 1) := by decide
theorem test_decode_mulx : decode 0b00000000000_0000_011_101_001_00100011#32 0 = .ok (.mulx 1 5 3) := by decide
theorem test_decode_invx : decode 0b00000000000_0000_000_001_010_00100100#32 0 = .ok (.invx 2 1) := by decide
theorem test_decode_powx : decode 0b00000000000_0000_100_011_101_00100101#32 0 = .ok (.powx 5 3 4) := by decide
theorem test_decode_nbm : decode 0b00000000000_0000_010_011_001_00110000#32 0 = .ok (.nbm 1 3 2) := by decide
theorem test_decode_bldrt : decode 0b00000000000_0000_000_000_000_00110001#32 0 = .ok .bldrt := by decide
theorem test_decode_rtrd : decode 0b00000000000_0000_000_001_010_00110010#32 0 = .ok (.rtrd 2 1) := by decide
theorem test_decode_msl8 : decode 0b00000000000_0000_000_001_010_00110011#32 0 = .ok (.msl8 2 1) := by decide
theorem test_decode_modrb : decode 0b00000000000_0000_000_110_111_00110100#32 0 = .ok (.modrb 7 6) := by decide
theorem test_decode_muld : decode 0b00000000000_0000_011_010_100_00110101#32 0 = .ok (.muld 4 2 3) := by decide

/-- 95_test_vectors.md, Decoder: illegal words, one a reason of R88. -/
theorem test_decode_unassigned : decode 0x00000006 0 = .error .unassignedOpcode := by decide
theorem test_decode_must_be_zero : decode 0x00208B10 0 = .error .mustBeZero := by decide
theorem test_decode_reserved_csr : decode 0x00120403 0 = .error .reservedCsr := by decide

/-- R90's example word, as the opcode table numbers its bits. -/
theorem test_decodeTableWord_mul : decodeTableWord 32 0x00008B11 = some (.mul 3 1 2) := by decide

/-! ### One command each -/

/-- A configured field with a in X1 and b in X2. -/
def configured (k : KSel) (p : BitVec 32) (a b : Word) : State :=
  { State.reset with ksel := k, poly := p, cfgValid := true, x := #v[0, a, b, 0, 0, 0, 0, 0] }

/-- The field 0x11B with the tables of generator 3. -/
def withLogExp (a b : Word) : State :=
  { configured .k8 0x1B a b with
      log := logTable 0x1B 3, exp := expTable 0x1B 3, lxValid := true, gen := 3 }

/-- The field 0x1002B with its reduction table. -/
def withRt (a b : Word) : State :=
  { configured .k16 0x2B a b with rt := rtTable 0x2B, rtValid := true }

/-- The state after an outcome. -/
def after (r : Result) : State :=
  match r with
  | .next t => t
  | .fault _ | .refused _ => State.reset

/-- The response an outcome leaves. -/
def answer (r : Result) : Option (CC × Word) :=
  match r with
  | .next t => t.pending
  | .fault _ | .refused _ => none

theorem test_nop : answer (exec .nop State.reset) = some (.ok, 0) := by decide
theorem test_ldi_no_range_check :
    readReg 1 (after (exec (.ldi 1 0xFFFFFFFFFFFFFFFF) State.reset)) = 0xFFFFFFFFFFFFFFFF := by decide
theorem test_mov : readReg 5 (after (exec (.mov 5 2) (configured .k8 0x1B 0 0xCA))) = 0xCA := by decide
theorem test_rdcsr_full_poly :
    answer (exec (.rdcsr 4 4) (configured .k8 0x1B 0 0)) = some (.ok, 0x11B) := by decide
theorem test_rdcsr_status_before_own_completion :
    answer (exec (.rdcsr 4 0) (completeError .table (configured .k16 0x2B 0 0))) = some (.ok, 0x115) := by
  decide
theorem test_cfg_refuses_full_polynomial :
    answer (exec (.cfg .k4 1) (configured .k8 0x1B 0x13 0)) = some (.operand, 0) := by decide
theorem test_cfg_clears_tables :
    statusWord (after (exec (.cfg .k16 1) (withLogExp 0x2B 0))) = 0x100 := by decide +kernel
theorem test_clrst :
    statusWord (after (exec .clrst (completeError .illegal State.reset))) = 0 := by decide

theorem test_add : answer (exec (.add 3 1 2) (configured .k8 0x1B 0x53 0xCA)) = some (.ok, 0x99) := by decide +kernel
theorem test_mul_k8 : answer (exec (.mul 3 1 2) (configured .k8 0x1B 0x57 0x83)) = some (.ok, 0xC1) := by decide +kernel
theorem test_mul_k32 :
    answer (exec (.mul 3 1 2) (configured .k32 0x8D 0xFFFFFFFF 0xFFFFFFFF)) = some (.ok, 0x55554039) := by
  decide +kernel
theorem test_mull : answer (exec (.mull 3 1 2) (configured .k8 0x1B 0x53 0xCA)) = some (.ok, 0x3F7E) := by decide +kernel
theorem test_modr_k4_sixteen_bits :
    answer (exec (.modr 3 1) (configured .k4 3 0xFFFF 0)) = some (.ok, 1) := by decide +kernel
theorem test_modr_k32 :
    answer (exec (.modr 3 1) (configured .k32 0x8D 0xFFFFFFFFFFFFFFFF 0)) = some (.ok, 0xFFFFC04B) := by
  decide +kernel
theorem test_inv : answer (exec (.inv 1 1) (configured .k8 0x1B 0x53 0)) = some (.ok, 0xCA) := by decide +kernel
theorem test_inv_reducible :
    answer (exec (.inv 3 1) (configured .k8 0x1A 2 0)) = some (.notInvertible, 0) := by decide +kernel
theorem test_div : answer (exec (.div 3 1 2) (configured .k8 0x1B 0xCA 0x53)) = some (.ok, 0x75) := by decide +kernel
theorem test_div_by_zero : answer (exec (.div 3 1 2) (configured .k8 0x1B 0x53 0)) = some (.ok, 0) := by decide +kernel
theorem test_pow : answer (exec (.pow 3 1 2) (configured .k8 0x1B 2 0x3E8)) = some (.ok, 0x72) := by decide +kernel
theorem test_pow_zero_reduced_first :
    answer (exec (.pow 3 1 2) (configured .k8 0x1B 0 0xFF)) = some (.ok, 1) := by decide +kernel

theorem test_bldlx :
    statusWord (after (exec (.bldlx 1) (configured .k8 0x1B 3 0))) = 0x300 := by decide +kernel
theorem test_bldlx_order_51 :
    answer (exec (.bldlx 1) (configured .k8 0x1B 2 0)) = some (.notGenerator, 0) := by decide +kernel
theorem test_logrd : answer (exec (.logrd 3 1) (withLogExp 0x53 0)) = some (.ok, 48) := by decide +kernel
theorem test_logrd_sentinel :
    answer (exec (.logrd 3 1) (withLogExp 0 0)) = some (.ok, 0xFFFFFFFFFFFFFF00) := by decide +kernel
theorem test_exprd : answer (exec (.exprd 3 1) (withLogExp 0x2FE 0)) = some (.ok, 0xF6) := by decide +kernel
theorem test_exprd_trailing_zero :
    answer (exec (.exprd 3 1) (withLogExp 0x3FF 0)) = some (.ok, 0) := by decide +kernel
theorem test_mulx : answer (exec (.mulx 3 1 2) (withLogExp 0x57 0x83)) = some (.ok, 0xC1) := by decide +kernel
theorem test_invx : answer (exec (.invx 3 1) (withLogExp 0x53 0)) = some (.ok, 0xCA) := by decide +kernel
theorem test_powx : answer (exec (.powx 3 1 2) (withLogExp 2 0x3E8)) = some (.ok, 0x72) := by decide +kernel
theorem test_powx_truncated_remainder :
    answer (exec (.powx 3 1 2) (withLogExp 0 1)) = some (.ok, 0) := by decide +kernel

theorem test_nbm : answer (exec (.nbm 3 1 2) (configured .k8 0x1B 0x53 0xA)) = some (.ok, 0x23E) := by decide +kernel
theorem test_bldrt :
    readRt 0x80 (after (exec .bldrt (configured .k16 0x2B 0 0))) = 0x1580 := by decide +kernel
theorem test_rtrd : answer (exec (.rtrd 3 1) (withRt 0xFF 0)) = some (.ok, 0x1919) := by decide +kernel
theorem test_msl8 : answer (exec (.msl8 3 1) (withRt 0x1234 0)) = some (.ok, 0x36E6) := by decide +kernel
theorem test_modrb : answer (exec (.modrb 3 1) (withRt 0x12345678 0)) = some (.ok, 0xB752) := by decide +kernel
theorem test_muld : answer (exec (.muld 3 1 2) (withRt 0x1234 0xABCD)) = some (.ok, 0x1D05) := by decide +kernel
theorem test_muld_operand_before_table :
    answer (exec (.muld 3 1 2) (configured .k16 0x2B 0x10000 1)) = some (.operand, 0) := by decide +kernel

/-! ### The port -/

/-- The host offers a command. -/
def offering (c : CmdWord) (d : Word) : Pins :=
  { Pins.quiet with cmdValid := true, cmdWord := c, cmdData := d }

/-- The host takes a response. -/
def taking : Pins := { Pins.quiet with rspReady := true }

/-- The host holds reset. -/
def resetting : Pins := { Pins.quiet with rst := true }

/-- A command offered in IDLE is sampled (R82). -/
theorem test_port_accepts :
    (after (step { State.reset with inputs := [offering 0x101 0x53] })).cmdWord = 0x101 ∧
      (after (step { State.reset with inputs := [offering 0x101 0x53] })).phase = .busy := by decide

/-- The completing edge runs the sampled command (R82, R261). -/
theorem test_port_completes :
    readReg 1 (after (step (sampleCommand 0x101 0x53 State.reset))) = 0x53 := by decide

/-- An illegal word completes with ILLEGAL: STATUS reads 0x11 (R88, R223). -/
theorem test_port_illegal :
    statusWord (after (step (sampleCommand 0x80000000 0 State.reset))) = 0x11 := by decide

/-- A response taken leaves IDLE with nothing pending; one not taken waits (R82, R258). -/
theorem test_port_hands_over :
    (after (step { completeOk 7 State.reset with inputs := [taking] })).phase = .idle ∧
      (after (step (completeOk 7 State.reset))).pending = some (.ok, 7) := by decide

/-- Reset while a response waits (R253). -/
theorem test_port_reset_abandons :
    (after (step { completeOk 7 State.reset with inputs := [resetting] })).pending = none := by decide

/-! ### A state and operands that meet the hypotheses of each statement -/

theorem witness_DecodeOfEncode :
    (Instr.rdcsr 7 8).wellFormed = true ∧ (Instr.muld 7 7 7).wellFormed = true := by decide

theorem witness_DecodedWordsEncodeBack :
    (decode 0x101 0x53 = .ok (.ldi 1 0x53) ∧ fieldOp 0x101 = 0x01) ∧
      decode 0x1502 0x53 = .ok (.mov 5 2) ∧ fieldOp 0x1502 ≠ 0x01 := by decide

theorem witness_illegal_words :
    fieldOp 0x00000006 = 0x06 ∧ (0x06 : BitVec 8) ∉ opcodeRows.map (·.1) ∧
      (0x10, 0xFFFE00FF) ∈ opcodeRows ∧ fieldOp 0x00208B10 = 0x10 ∧
      (0x00208B10 : CmdWord) &&& 0xFFFE00FF ≠ 0x10 ∧
      fieldOp 0x00120403 = 0x03 ∧ 9 ≤ fieldFn 0x00120403 := by
  refine ⟨by decide, by simp [opcodeRows], by simp [opcodeRows], by decide, by decide, by decide,
    by decide⟩

theorem witness_IllegalWordsAndTotalDecoder :
    let s := sampleCommand 0x00000006 0 State.reset
    decode 0x00100403 0 = .ok (.rdcsr 4 8) ∧
      s.phase = .busy ∧ s.busyLeft = 0 ∧ (edgePins s).rst = false := by
  refine ⟨by decide, by decide, by decide, by decide⟩

theorem witness_OnlyLdiReadsData :
    fieldOp 0x1502 ≠ 0x01 ∧ fieldOp 0x701 = 0x01 ∧ decode 0x701 9 = .ok (.ldi 7 9) := by decide

theorem witness_StepRunsDecodedCommand :
    let s := sampleCommand 0x8B11 0 State.reset
    s.phase = .busy ∧ s.busyLeft = 0 ∧ (edgePins s).rst = false ∧
      decode s.cmdWord s.cmdData = .ok (.mul 3 1 2) ∧
      decodeTableWord 32 0x8B11 = some (.mul 3 1 2) := by decide

theorem witness_ResetEdgeAbandonsTheCommand :
    (edgePins { sampleCommand 0x8B11 0 State.reset with inputs := [resetting] }).rst = true := by
  decide

theorem witness_CommandTransferSamplesTheWords :
    let s := { State.reset with inputs := [offering 0x101 7] }
    s.phase = .idle ∧ (edgePins s).rst = false ∧ (edgePins s).cmdValid = true ∧
      State.reset.phase = .idle ∧ (edgePins State.reset).rst = false ∧
      (edgePins State.reset).cmdValid = false := by decide

theorem witness_BusyCompletesAfterItsLatency :
    let s := { sampleCommand 0x101 7 State.reset with busyLeft := 1, inputs := [offering 5 5] }
    s.phase = .busy ∧ s.busyLeft = 1 ∧ NoResetFor 2 s := by
  unfold NoResetFor
  decide

theorem witness_AcceptedCommandGetsItsResponse :
    let s := { State.reset with inputs := [offering 0x101 7] }
    s.phase = .idle ∧ (edgePins s).cmdValid = true ∧ ∀ p ∈ s.inputs, p.rst = false := by decide

theorem witness_WaitingResponseIsHeld :
    let s := { completeOk 7 State.reset with inputs := [offering 5 5, taking] }
    s.phase = .respond ∧ ∀ p ∈ s.inputs.take 1, p.rst = false ∧ p.rspReady = false := by decide

theorem witness_ResponseTransferReturnsToIdle :
    let s := { completeOk 7 State.reset with inputs := [taking] }
    s.phase = .respond ∧ (edgePins s).rst = false ∧ (edgePins s).rspReady = true := by decide

theorem witness_OutputsFollowThePhase :
    (outputs .quiet (completeOk 7 State.reset)).rspValid = true ∧
      (completeOk 7 State.reset).pending = some (.ok, 7) := by decide

/-- One edge that completes a command, and one that only waits. -/
theorem witness_EffectsAppearAtOneEdge :
    let s := sampleCommand 0x101 7 State.reset
    ((edgePins s).rst = false ∧ step s = .next (after (step s)) ∧
      s.phase = .busy ∧ (after (step s)).phase = .respond) ∧
    step State.reset = .next State.reset ∧
      ¬ (State.reset.phase = .busy ∧ State.reset.phase = .respond) := by
  refine ⟨⟨rfl, rfl, rfl, rfl⟩, rfl, by decide⟩

theorem generatorCheck_three : generatorCheck 0x1B 3 = true := by decide +kernel

/-- The invariant holds of a state with built log and exp tables. -/
theorem inv_withLogExp (a b : Word) : BlockInv (withLogExp a b) where
  polyBelow := show (0x1B : Nat) < 2 ^ 8 by decide
  unconfigured := by intro h; cases h
  lx := ⟨rfl, rfl, generatorCheck_three, rfl, rfl⟩
  rt := by intro h; cases h
  port := ⟨⟨nofun, nofun⟩, nofun⟩
  errSticky := by intro h; exact absurd rfl h

/-- The invariant holds of a state with a built reduction table. -/
theorem inv_withRt (a b : Word) : BlockInv (withRt a b) where
  polyBelow := show (0x2B : Nat) < 2 ^ 16 by decide
  unconfigured := by intro h; cases h
  lx := rfl
  rt := fun _ => ⟨rfl, rfl, rfl⟩
  port := ⟨⟨nofun, nofun⟩, nofun⟩
  errSticky := by intro h; exact absurd rfl h

theorem witness_StepKeepsInv :
    BlockInv (withLogExp 3 5) ∧ step (withLogExp 3 5) = .next (withLogExp 3 5) :=
  ⟨inv_withLogExp 3 5, rfl⟩

theorem witness_UnbuiltTablesAreUnobservable :
    SameButHidden State.reset { State.reset with rt := Vector.replicate 256 1 } ∧
      step State.reset = .next State.reset :=
  ⟨⟨rfl, nofun, nofun⟩, rfl⟩

/-- NOCFG at reset, BLDLX with g = 1, and an illegal word. -/
theorem witness_ErrorCompletionsArePrecise :
    (exec (.add 3 1 2) State.reset = .next (completeError .nocfg State.reset)) ∧
      (∃ t, exec (.bldlx 1) (configured .k8 0x1B 1 0) = .next t ∧ t.lastCC = .notGenerator) ∧
      runSampled (sampleCommand 6 0 State.reset) =
        .next (completeError .illegal (sampleCommand 6 0 State.reset)) := by
  refine ⟨rfl, ⟨buildLogExp 1 (configured .k8 0x1B 1 0), rfl, by decide +kernel⟩, rfl⟩

/-- An OK completion, of a command with a destination. -/
theorem witness_OkCompletionsAnswerTheirResult :
    exec (.ldi 1 7) State.reset = .next (completeWordToRd 1 7 State.reset) ∧
      (completeWordToRd 1 7 State.reset).lastCC = .ok ∧ destination (.ldi 1 7) = some 1 ∧
      (Instr.ldi 1 7).wellFormed = true ∧ (completeWordToRd 1 7 State.reset).lastCC ∉ listedCodes (.ldi 1 7) :=
  ⟨rfl, rfl, rfl, rfl, by decide⟩

theorem witness_CommandsEndOnlyWithListedCodes :
    (Instr.add 3 1 2).wellFormed = true ∧
      exec (.add 3 1 2) State.reset = .next (completeError .nocfg State.reset) :=
  ⟨rfl, rfl⟩

/-- One state for each clause of R224's order. -/
theorem witness_FirstErrorIsReported :
    decode (sampleCommand 6 0 State.reset).cmdWord 0 = .error .unassignedOpcode ∧
    (needsField (.muld 3 1 2) = true ∧ State.reset.cfgValid = false) ∧
    ((configured .k8 0x1B 0x10000 1).cfgValid = true ∧ familyOrder (.muld 3 1 2) = some .k16 ∧
      (configured .k8 0x1B 0x10000 1).ksel ≠ .k16) ∧
    ((configured .k16 0x2B 0x10000 1).ksel = .k16 ∧
      operandsInRange (configured .k16 0x2B 0x10000 1) (.muld 3 1 2) = false) ∧
    (operandsInRange (configured .k16 0x2B 0xFFFF 1) (.muld 3 1 2) = true ∧
      tablesReady (configured .k16 0x2B 0xFFFF 1) (.muld 3 1 2) = false) ∧
    (operandsInRange (withRt 0xFFFF 1) (.muld 3 1 2) = true ∧
      tablesReady (withRt 0xFFFF 1) (.muld 3 1 2) = true) := by decide +kernel

/-- A register that is no destination, and the destination of a command that ends with an error. -/
theorem witness_RegistersWrittenOnlyAsListed :
    (exec (.ldi 1 7) State.reset = .next (completeWordToRd 1 7 State.reset) ∧
      destination (.ldi 1 7) ≠ some 2) ∧
    (exec (.add 3 1 2) State.reset = .next (completeError .nocfg State.reset) ∧
      (completeError .nocfg State.reset).lastCC ≠ .ok) :=
  ⟨⟨rfl, by decide⟩, rfl, by decide⟩

theorem witness_CsrsAndTablesWrittenOnlyByTheirCommands :
    exec (.ldi 1 7) State.reset = .next (completeWordToRd 1 7 State.reset) ∧
      (∀ k r, Instr.ldi 1 7 ≠ .cfg k r) ∧ (∀ r, Instr.ldi 1 7 ≠ .bldlx r) ∧ Instr.ldi 1 7 ≠ .bldrt :=
  ⟨rfl, nofun, nofun, nofun⟩

/-- CLRST clears a set ERR; CFG_VALID stands. -/
theorem witness_StickyBitsClearedOnlyAsStated :
    let s := sampleCommand 5 0 (completeError .table (configured .k8 0x1B 0 0))
    (edgePins s).rst = false ∧ step s = .next (after (step s)) ∧ s.err = true ∧
      (after (step s)).err = false ∧ s.cfgValid = true :=
  ⟨rfl, rfl, rfl, rfl, rfl⟩

/-- The first and the last reserved CSR number. -/
theorem witness_RdcsrReadsTheCsrs : (9 : CsrIdx) ≤ 9 ∧ (9 : CsrIdx) ≤ 15 := by decide

/-- The largest polynomial of k = 4 and the one after it. -/
theorem witness_CfgConstructsTheField :
    operand 1 (configured .k8 0x1B 15 0) < 2 ^ kselOrder .k4 ∧
      2 ^ kselOrder .k4 ≤ operand 1 (configured .k8 0x1B 16 0) := by decide

theorem witness_CfgInvalidatesTheTables :
    let t := after (exec (.cfg .k8 1) (withLogExp 0x1B 0))
    exec (.cfg .k8 1) (withLogExp 0x1B 0) = .next t ∧ t.lastCC = .ok ∧
      tablesReady { t with lxValid := false, rtValid := false } (.mulx 3 1 2) = false :=
  ⟨rfl, rfl, rfl⟩

/-- The largest elements of k = 4: for ADD, MUL, MULL, and for MODR after MULL. -/
theorem witness_element_commands :
    let s := configured .k4 3 15 15
    polyNat s < 2 ^ order s ∧ s.cfgValid = true ∧ operand 1 s < 2 ^ order s ∧
      operand 2 s < 2 ^ order s := by decide

/-- The largest EE operand of k = 4, for MODR and for POW's exponent. -/
theorem witness_double_operands :
    let s := configured .k4 3 0xFFFF 0xFFFF
    polyNat s < 2 ^ order s ∧ s.cfgValid = true ∧ operand 1 s < 2 ^ doubleWidthOf s.ksel ∧
      operand 2 s < 2 ^ doubleWidthOf s.ksel ∧ operand 0 s < 2 ^ order s := by decide

/-- INV and DIV: the divisor 0, a divisor with an inverse, and one without (x in GF(2)[x]/x^4). -/
theorem witness_InvIsTheInverse :
    (polyNat (configured .k4 3 0 0) < 2 ^ order (configured .k4 3 0 0) ∧
      operand 1 (configured .k4 3 0 0) = 0) ∧
    (operand 1 (configured .k4 3 2 2) = 2 ∧ gfMul 4 3 2 9 = 1 ∧ order (configured .k4 3 2 2) = 4) ∧
    (operand 1 (configured .k4 0 2 2) = 2 ∧ ∀ r, r < 2 ^ 4 → gfMul 4 0 2 r ≠ 1) := by decide +kernel

/-- The same for DIV, with the largest element as the dividend. -/
theorem witness_DivMultipliesByTheInverse :
    (∀ b : Word, (configured .k4 3 15 b).cfgValid = true) ∧
    polyNat (configured .k4 3 15 0) < 2 ^ order (configured .k4 3 15 0) ∧
    operand 1 (configured .k4 3 15 0) = 15 ∧ operand 2 (configured .k4 3 15 0) = 0 ∧
    (operand 2 (configured .k4 3 15 2) = 2 ∧ gfMul 4 3 2 9 = 1) ∧
    (operand 2 (configured .k4 0 15 2) = 2 ∧ ∀ r, r < 2 ^ 4 → gfMul 4 0 2 r ≠ 1) :=
  ⟨fun _ => rfl, by decide, by decide, by decide, by decide +kernel, by decide +kernel⟩

theorem witness_MulLaws :
    (15 : Nat) < 2 ^ kselOrder .k4 ∧ (4294967295 : Nat) < 2 ^ kselOrder .k32 := by decide

/-- 3 generates the field 0x11B. -/
theorem isGenerator_three : IsGenerator 0x1B 3 := by
  have hall : ∀ i, i < 255 → 1 ≤ i → (gpowers 0x1B 3)[i]? ≠ some 1 := by decide +kernel
  have hlast : (gpowers 0x1B 3)[255]? = some 1 := by decide +kernel
  refine ⟨fun i h1 h2 hc => hall i (by omega) h1 ?_, ?_⟩
  · rw [gpowers_getElem? _ _ _ (by omega), hc]
  · rw [gpowers_getElem? _ _ _ (by omega)] at hlast
    exact Option.some.inj hlast

/-- 1 does not. -/
theorem not_isGenerator_one : ¬ IsGenerator 0x1B 1 :=
  fun h => h.1 1 (by omega) (by omega) (by decide +kernel)

theorem witness_BldlxBuildsOrInvalidates :
    let s := configured .k8 0x1B 3 1
    s.cfgValid = true ∧ s.ksel = .k8 ∧ operand 1 s < 256 ∧ operand 2 s < 256 ∧
      IsGenerator (polyNat s) (operand 1 s) ∧ ¬ IsGenerator (polyNat s) (operand 2 s) :=
  ⟨rfl, rfl, by decide, by decide, isGenerator_three, not_isGenerator_one⟩

theorem witness_GeneratorCheckMeansOrder255 : generatorCheck 0x1B 3 = true := generatorCheck_three

theorem witness_LogExpTableContents :
    let s := configured .k8 0x1B 3 0
    polyNat s < 2 ^ order s ∧ exec (.bldlx 1) s = .next (buildLogExp 3 s) ∧
      (buildLogExp 3 s).lastCC = .ok := by
  refine ⟨by decide, rfl, ?_⟩
  rcases buildLogExp_cases 3 (configured .k8 0x1B 3 0) with ⟨_, h⟩ | ⟨h, _⟩
  · rw [h]; rfl
  · exact absurd (generatorCheck_three.symm.trans h) (by decide)

/-- The last entries of LOG and EXP. -/
theorem witness_LogrdAndExprdReadTheTables :
    (withLogExp 255 1023).cfgValid = true ∧ (withLogExp 255 1023).ksel = .k8 ∧
      (withLogExp 255 1023).lxValid = true ∧
      (withLogExp 255 1023).log[operand 1 (withLogExp 255 1023)]? = some 7 ∧
      (withLogExp 255 1023).exp[operand 2 (withLogExp 255 1023)]? = some 0 := by decide +kernel

/-- MULX, INVX and POWX: 0 with its sentinel and the largest element, and the largest exponent. -/
theorem witness_log_operands :
    ((withLogExp 0 255).cfgValid = true ∧ (withLogExp 0 255).ksel = .k8 ∧
      (withLogExp 0 255).lxValid = true) ∧
      (withLogExp 0 255).log[operand 1 (withLogExp 0 255)]? = some 256 ∧
      (withLogExp 0 255).log[operand 2 (withLogExp 0 255)]? = some 7 ∧
      operand 2 (withLogExp 255 65535) < 65536 := by decide +kernel

/-- ExpIndexRanges, MulxEqualsMul, InvxEqualsInv, PowxEqualsPow. -/
theorem witness_lx_laws : BlockInv (withLogExp 0 255) ∧ (withLogExp 0 255).lxValid = true :=
  ⟨inv_withLogExp 0 255, rfl⟩

theorem witness_NbmIsCarrylessProduct :
    operand 1 (configured .k4 3 255 15) < 256 ∧ operand 2 (configured .k4 3 255 15) < 16 := by decide

theorem witness_BldrtBuildsTheTable :
    (configured .k16 0x2B 0 0).cfgValid = true ∧ (configured .k16 0x2B 0 0).ksel = .k16 := by decide

theorem witness_RtEntriesAreRemainders :
    let s := configured .k16 0x2B 0 0
    polyNat s < 2 ^ order s ∧ exec .bldrt s = .next (buildRt s) ∧ (buildRt s).lastCC = .ok :=
  ⟨by decide, rfl, rfl⟩

/-- RTRD's last index and MSL8's largest element, MODRB's largest operand, MULD's largest elements. -/
theorem witness_rt_commands :
    (withRt 255 65535).cfgValid = true ∧ (withRt 255 65535).ksel = .k16 ∧
      (withRt 255 65535).rtValid = true ∧
      (withRt 255 65535).rt[operand 1 (withRt 255 65535)]? = some 0x1919 ∧
      (withRt 65535 65535).rt[operand 1 (withRt 65535 65535) / 256]? = some 0x1919 ∧
      operand 1 (withRt 0xFFFFFFFF 0) < 4294967296 ∧ operand 1 (withRt 65535 65535) < 65536 ∧
      operand 2 (withRt 65535 65535) < 65536 := by decide +kernel

/-- MuldEqualsMul, ModrbEqualsModr, Msl8EqualsMulByX8. -/
theorem witness_rt_laws : BlockInv (withRt 65535 65535) ∧ (withRt 65535 65535).rtValid = true ∧
    operand 1 (withRt 65535 65535) < 65536 :=
  ⟨inv_withRt _ _, rfl, by decide⟩

end Sys2Proof.Tests
end

section
/-! PROOF. The decoder is total, and a command word is illegal exactly in the cases of R88 (R86,
R88, R223). -/

namespace Sys2Proof.Machine

/-! ### The opcode map -/

/-- The row of R86 that stands for a command: its opcode and the mask of its format. -/
def rowOf (i : Instr) : BitVec 8 × CmdWord := (opcodeOf i, formatMask (formatOf i))

/-- Every command has its row in the opcode map. -/
theorem rowOf_mem (i : Instr) : rowOf i ∈ opcodeRows := by
  cases i <;> simp [rowOf, opcodeOf, formatOf, formatMask, opcodeRows]

/-- No two rows of R86 share an opcode. -/
theorem opcodeRows_opcode_nodup : (opcodeRows.map Prod.fst).Nodup := by decide

/-- The opcode picks the row: the only row with a command's opcode is that command's. -/
theorem eq_rowOf_of_mem {row : BitVec 8 × CmdWord} {i : Instr} (hrow : row ∈ opcodeRows)
    (hop : row.1 = opcodeOf i) : row = rowOf i :=
  List.inj_on_of_nodup_map opcodeRows_opcode_nodup hrow (rowOf_mem i) hop

/-! ### What the decoder can answer -/

/-- c matches the row of i: `(CMD & mask) == OP` (R86). -/
def MatchesRow (c : CmdWord) (i : Instr) : Prop := c &&& (rowOf i).2 = (rowOf i).1.setWidth 32

/-- The answers the decoder can give for the word c, each with what it says of c: one for each case of
R88, and one for a command. -/
inductive DecodeOutcome (c : CmdWord) : Except DecodeError Instr → Prop
  | unassigned (hop : ∀ row ∈ opcodeRows, row.1 ≠ fieldOp c) :
      DecodeOutcome c (.error .unassignedOpcode)
  | mustBeZero {i : Instr} (hop : opcodeOf i = fieldOp c) (hmask : ¬ MatchesRow c i) :
      DecodeOutcome c (.error .mustBeZero)
  | reservedCsr (hop : fieldOp c = 0x03) (hfn : 9 ≤ fieldFn c) :
      DecodeOutcome c (.error .reservedCsr)
  | command {i : Instr} (hop : opcodeOf i = fieldOp c) (hmask : MatchesRow c i)
      (hfn : ¬ (fieldOp c = 0x03 ∧ 9 ≤ fieldFn c)) : DecodeOutcome c (.ok i)

/-- A row's answer, once the row with the word's opcode is taken: the command where its mask matches,
and a must-be-zero bit is 1 where it does not. -/
theorem decodeRow_eq {c : CmdWord} {f : Format} {i : Instr} (hf : formatOf i = f)
    (hop : opcodeOf i = fieldOp c) :
    (MatchesRow c i ∧ decodeRow f c i = .ok i) ∨
      (¬ MatchesRow c i ∧ decodeRow f c i = .error .mustBeZero) := by
  subst hf
  by_cases h : MatchesRow c i
  · exact .inl ⟨h, if_pos (hop ▸ h)⟩
  · exact .inr ⟨h, if_neg (hop ▸ h)⟩

/-- Every row but RDCSR's leaves only cases (b) of R88 and the command. -/
theorem decodeRow_outcome {c : CmdWord} {f : Format} {i : Instr} {op : BitVec 8}
    (hc : fieldOp c = op) (hf : formatOf i = f) (hi : opcodeOf i = op) (hne : op ≠ 0x03) :
    DecodeOutcome c (decodeRow f c i) := by
  have hop : opcodeOf i = fieldOp c := hi.trans hc.symm
  obtain ⟨hmask, heq⟩ | ⟨hmask, heq⟩ := decodeRow_eq hf hop
  · exact heq ▸ .command hop hmask fun hcsr => hne (hc.symm.trans hcsr.1)
  · exact heq ▸ .mustBeZero hop hmask

/-- RDCSR's row has case (c) of R88 besides. -/
theorem decode_outcome_of_rdcsr {c : CmdWord} (hc : fieldOp c = 0x03) (d : Word) :
    DecodeOutcome c (decode c d) := by
  have hop : opcodeOf (.rdcsr (fieldRd c) (fieldFn c)) = fieldOp c := hc.symm
  obtain ⟨hmask, heq⟩ | ⟨hmask, heq⟩ := decodeRow_eq (f := .x) rfl hop
  · by_cases hfn : fieldFn c ≤ 8
    · have hdec : decode c d = .ok (.rdcsr (fieldRd c) (fieldFn c)) := by
        simpa [decode, hc, heq] using hfn
      exact hdec ▸ .command hop hmask fun ⟨_, h9⟩ => by bv_omega
    · have hdec : decode c d = .error .reservedCsr := by
        simpa [decode, hc, heq] using hfn
      exact hdec ▸ .reservedCsr hc (by bv_omega)
  · have hdec : decode c d = .error .mustBeZero := by simp [decode, hc, heq]
    exact hdec ▸ .mustBeZero hop hmask

/-- The decoder's answer is always one of `DecodeOutcome`: the arms of decode are the rows of R86, and
what no arm takes has none of their opcodes. -/
theorem decode_outcome (c : CmdWord) (d : Word) : DecodeOutcome c (decode c d) := by
  by_cases hcsr : fieldOp c = 0x03
  · exact decode_outcome_of_rdcsr hcsr d
  · unfold decode
    split
    case h_4 hc => exact absurd hc hcsr
    case h_26 => exact .unassigned (by simp_all [opcodeRows, eq_comm])
    all_goals next hc => exact decodeRow_outcome hc rfl rfl (by decide)

/-! ### Illegal words -/

/-- The words R88 calls illegal, by its cases (a), (b) and (c). -/
def IllegalWord (c : CmdWord) : Prop :=
  (∀ row ∈ opcodeRows, row.1 ≠ fieldOp c) ∨
  (∃ row ∈ opcodeRows, row.1 = fieldOp c ∧ c &&& row.2 ≠ row.1.setWidth 32) ∨
  (fieldOp c = 0x03 ∧ 9 ≤ fieldFn c)

/-- A word the decoder refuses is illegal, by the case its error names. -/
theorem DecodeOutcome.illegalWord_of_error {c : CmdWord} {e : DecodeError}
    (h : DecodeOutcome c (.error e)) : IllegalWord c := by
  cases h with
  | unassigned hop => exact .inl hop
  | @mustBeZero i hop hmask => exact .inr (.inl ⟨rowOf i, rowOf_mem i, hop, hmask⟩)
  | reservedCsr hop hfn => exact .inr (.inr ⟨hop, hfn⟩)

/-- A word that decodes is in none of R88's cases: its row is there, and it is the only one whose mask
case (b) could speak of. -/
theorem DecodeOutcome.not_illegalWord_of_ok {c : CmdWord} {i : Instr}
    (h : DecodeOutcome c (.ok i)) : ¬ IllegalWord c := by
  cases h with
  | command hop hmask hfn =>
    rintro (hnone | ⟨row, hrow, hrowOp, hbits⟩ | hcsr)
    · exact hnone (rowOf i) (rowOf_mem i) hop
    · obtain rfl := eq_rowOf_of_mem hrow (hrowOp.trans hop.symm)
      exact hbits hmask
    · exact hfn hcsr

/-- A word that decodes matches its command's row. -/
theorem DecodeOutcome.matchesRow_of_ok {c : CmdWord} {i : Instr}
    (h : DecodeOutcome c (.ok i)) : MatchesRow c i := by
  cases h with
  | command _ hmask _ => exact hmask

/-- The decoder refuses exactly the illegal words. -/
theorem decode_error_iff_illegalWord (c : CmdWord) (d : Word) :
    (∃ e, decode c d = .error e) ↔ IllegalWord c := by
  have hout := decode_outcome c d
  cases hdec : decode c d with
  | error e => exact iff_of_true ⟨e, rfl⟩ (hdec ▸ hout).illegalWord_of_error
  | ok i => exact iff_of_false (fun ⟨_, he⟩ => nomatch he) (hdec ▸ hout).not_illegalWord_of_ok

/-- A word that decodes matches exactly one row with its command's opcode. -/
theorem existsUnique_row_of_decode_ok {c : CmdWord} {d : Word} {i : Instr}
    (hdec : decode c d = .ok i) :
    ∃! row, row ∈ opcodeRows ∧ row.1 = opcodeOf i ∧ c &&& row.2 = row.1.setWidth 32 :=
  ⟨rowOf i, ⟨rowOf_mem i, rfl, (hdec ▸ decode_outcome c d).matchesRow_of_ok⟩,
    fun _ ⟨hrow, hop, _⟩ => eq_rowOf_of_mem hrow hop⟩

/-! ### The completing edge -/

/-- The edge after the last wait in BUSY runs the sampled words (R82, R261). -/
theorem step_of_busy_done {s : State} (hphase : s.phase = .busy) (hleft : s.busyLeft = 0)
    (hrst : (edgePins s).rst = false) : step s = runSampled (passEdge s) := by
  simp [step, clockEdge, hphase, hleft, hrst]

/-- Sampled words the decoder refuses complete with ILLEGAL and nothing else (R88, R223). -/
theorem runSampled_of_decode_error {s : State} {e : DecodeError}
    (hdec : decode s.cmdWord s.cmdData = .error e) :
    runSampled s = .next (errorResponse .illegal s) := by
  simp [runSampled, hdec, errorResponse_eq]

/-- Settles O3: the decoder's answers, case by case (`decode_outcome`), against the cases of R88. -/
theorem illegalWordsAndTotalDecoder : Obligations.IllegalWordsAndTotalDecoder := by
  intro c d
  refine ⟨decode_error_iff_illegalWord c d, fun hlegal => ?_, ?_⟩
  · cases hdec : decode c d with
    | error e => exact absurd ((decode_error_iff_illegalWord c d).1 ⟨e, hdec⟩) hlegal
    | ok i => exact ⟨i, rfl, existsUnique_row_of_decode_ok hdec⟩
  · rintro hillegal s hphase hleft hrst rfl rfl
    obtain ⟨e, hdec⟩ := (decode_error_iff_illegalWord s.cmdWord s.cmdData).2 hillegal
    exact (step_of_busy_done hphase hleft hrst).trans (runSampled_of_decode_error hdec)

end Sys2Proof.Machine
end

section
/-! PROOF. The powers of a generator at k = 8: after a passed check, g^0 .. g^254 run through every
non-zero byte once (R132, R161). -/

namespace Sys2Proof.Machine

open Function (IsPeriodicPt minimalPeriod)

/-! ### MUL stays below 2^k, and has 0 for its zero (R132) -/

/-- The running power of R132's loop stays below 2^k: HIGH_BIT is reduced away before it leaves. -/
theorem gfDouble_lt {k p : Nat} (poly : Nat) (hk : 0 < k) (hp : p < 2 ^ k) :
    gfDouble k poly p < 2 ^ k := by
  unfold gfDouble
  split
  · exact Nat.and_lt_two_pow _ (Nat.sub_lt (Nat.two_pow_pos k) Nat.one_pos)
  next hhigh =>
    have hbit : p.testBit (k - 1) = false := by
      simpa [highBitOf, Nat.and_two_pow] using hhigh
    have hlow : p < 2 ^ (k - 1) := Nat.lt_pow_two_of_testBit p fun i hi => by
      obtain rfl | hki : i = k - 1 ∨ k ≤ i := by omega
      · exact hbit
      · exact Nat.testBit_lt_two_pow (hp.trans_le (Nat.pow_le_pow_right (by omega) hki))
    have hpow : 2 ^ (k - 1) * 2 = 2 ^ k := Nat.two_pow_pred_mul_two hk
    rw [Nat.shiftLeft_eq]
    omega

/-- R132's loop keeps its sum below 2^k. -/
theorem gfMulLoop_lt {k : Nat} (poly b : Nat) (hk : 0 < k) (n i p res : Nat) (hp : p < 2 ^ k)
    (hres : res < 2 ^ k) : gfMulLoop k poly b n i p res < 2 ^ k := by
  induction n generalizing i p res with
  | zero => exact hres
  | succ n ih =>
    refine ih _ _ _ (gfDouble_lt poly hk hp) ?_
    split
    · exact Nat.xor_lt_two_pow hres hp
    · exact hres

/-- A product of MUL is below 2^k. -/
theorem gfMul_lt {k a : Nat} (poly b : Nat) (hk : 0 < k) (ha : a < 2 ^ k) :
    gfMul k poly a b < 2 ^ k :=
  gfMulLoop_lt poly b hk k 0 a 0 ha (Nat.two_pow_pos k)

/-- R132's loop adds nothing while the running power is 0. -/
theorem gfMulLoop_zero (k poly b n i res : Nat) : gfMulLoop k poly b n i 0 res = res := by
  induction n generalizing i with
  | zero => rfl
  | succ n ih => simpa [gfMulLoop, gfDouble] using ih (i + 1)

/-- MUL(0, b) = 0. -/
@[simp] theorem gfMul_zero_left (k poly b : Nat) : gfMul k poly 0 b = 0 := gfMulLoop_zero _ _ _ _ _ _

/-! ### The powers of g as iterates of "times g" -/

/-- One turn of R161's loop: the next power of g, at k = 8. -/
def timesGen (poly g p : Nat) : Nat := gfMul 8 poly p g

/-- gp(i) is 1 times g, i times. -/
theorem mulPower_eq_timesGen_iterate (poly g i : Nat) :
    mulPower 8 poly g i = (timesGen poly g)^[i] 1 :=
  mulPower_eq_iterate poly g i

/-- Every power of g is a byte. -/
theorem mulPower_lt (poly g i : Nat) : mulPower 8 poly g i < 256 := by
  cases i with
  | zero => simp [mulPower]
  | succ i => exact gfMul_lt poly g (by omega) (mulPower_lt poly g i)

/-- One turn of R161's loop: it fails where the next power is 1 before the last turn. -/
theorem generatorLoop_succ (poly g n p : Nat) :
    generatorLoop poly g (n + 1) p =
      if timesGen poly g p = 1 ∧ n ≠ 0 then false else generatorLoop poly g n (timesGen poly g p) :=
  rfl

/-- R161's loop with n turns to go passes exactly if p comes back to 1 after n turns, and not after
fewer of them. -/
theorem generatorLoop_eq_true_iff (poly g n p : Nat) :
    generatorLoop poly g n p = true ↔
      (∀ i, 1 ≤ i → i < n → (timesGen poly g)^[i] p ≠ 1) ∧ (timesGen poly g)^[n] p = 1 := by
  induction n generalizing p with
  | zero => simp [generatorLoop]
  | succ n ih =>
    have hearly : (∀ i, 1 ≤ i → i < n + 1 → (timesGen poly g)^[i] p ≠ 1) ↔
        ¬ (timesGen poly g p = 1 ∧ n ≠ 0) ∧
          ∀ i, 1 ≤ i → i < n → (timesGen poly g)^[i] (timesGen poly g p) ≠ 1 := by
      constructor
      · exact fun h => ⟨fun ⟨h1, _⟩ => h 1 le_rfl (by omega) h1,
          fun i _ _ => h (i + 1) (by omega) (by omega)⟩
      · rintro ⟨hfirst, hrest⟩ (_ | _ | i) h1 hi
        · omega
        · exact fun h => hfirst ⟨h, by omega⟩
        · exact hrest (i + 1) (by omega) (by omega)
    rw [hearly, Function.iterate_succ_apply, and_assoc, ← ih]
    by_cases hstop : timesGen poly g p = 1 ∧ n ≠ 0 <;> simp [generatorLoop_succ, hstop]

/-- R161's check passes exactly for the g of order 255. -/
theorem generatorCheck_iff_isGenerator (poly g : Nat) :
    generatorCheck poly g = true ↔ IsGenerator poly g := by
  simp only [generatorCheck, generatorLoop_eq_true_iff, IsGenerator, mulPower_eq_timesGen_iterate,
    Nat.lt_succ_iff]

namespace IsGenerator

variable {poly g : Nat} (hg : IsGenerator poly g)
include hg

/-- 1 comes back after 255 turns. -/
theorem isPeriodicPt : IsPeriodicPt (timesGen poly g) 255 1 :=
  (mulPower_eq_timesGen_iterate poly g 255).symm.trans hg.2

/-- 1 comes back after 255 turns and no fewer. -/
theorem minimalPeriod_eq : minimalPeriod (timesGen poly g) 1 = 255 := by
  have hle := hg.isPeriodicPt.minimalPeriod_le (by omega)
  have hpos := hg.isPeriodicPt.minimalPeriod_pos (by omega)
  by_contra hne
  refine hg.1 _ hpos (by omega) ?_
  rw [mulPower_eq_timesGen_iterate, Function.iterate_minimalPeriod]

/-- The powers of g repeat every 255. -/
theorem mulPower_mod (i : Nat) : mulPower 8 poly g (i % 255) = mulPower 8 poly g i := by
  simpa only [mulPower_eq_timesGen_iterate] using hg.isPeriodicPt.iterate_mod_apply i

/-- g^0 .. g^254 are distinct. -/
theorem mulPower_injOn : Set.InjOn (mulPower 8 poly g) (Set.Iio 255) := by
  have hinj := Function.iterate_injOn_Iio_minimalPeriod (f := timesGen poly g) (x := 1)
  rw [hg.minimalPeriod_eq] at hinj
  simpa only [← mulPower_eq_timesGen_iterate] using hinj

/-- No power of g is 0: from 0 the powers never come back to 1. -/
theorem mulPower_ne_zero {i : Nat} (hi : i ≤ 255) : mulPower 8 poly g i ≠ 0 := by
  intro hzero
  have hback : (timesGen poly g)^[255 - i] (mulPower 8 poly g i) = 1 := by
    rw [mulPower_eq_timesGen_iterate, ← Function.iterate_add_apply, Nat.sub_add_cancel hi]
    exact hg.isPeriodicPt
  rw [hzero, Function.iterate_fixed (gfMul_zero_left 8 poly g)] at hback
  exact absurd hback (by decide)

/-- Every non-zero byte is one of g^0 .. g^254: they are 255 distinct non-zero bytes. -/
theorem exists_mulPower_eq {x : Nat} (hx : 0 < x) (hlt : x < 256) :
    ∃ i, i < 255 ∧ mulPower 8 poly g i = x := by
  have hmaps : Set.MapsTo (mulPower 8 poly g) (Finset.range 255) (Finset.Ico 1 256) := by
    intro i hi
    have hi : i < 255 := by simpa using hi
    have := hg.mulPower_ne_zero hi.le
    have := mulPower_lt poly g i
    simp only [Finset.coe_Ico, Set.mem_Ico]
    omega
  have hinj : Set.InjOn (mulPower 8 poly g) (Finset.range 255) := by
    simpa using hg.mulPower_injOn
  have hsurj := Finset.surjOn_of_injOn_of_card_le _ hmaps hinj (by simp)
  obtain ⟨i, hi, rfl⟩ := hsurj (by simpa using ⟨hx, hlt⟩ : x ∈ (Finset.Ico 1 256 : Set Nat))
  exact ⟨i, by simpa using hi, rfl⟩

end IsGenerator

end Sys2Proof.Machine
end

section
/-! PROOF. The contents of LOG and EXP after a successful BLDLX, and the indices that MULX, INVX and
POWX compute from them (R162, R163, R169). -/

namespace Sys2Proof.Machine

/-! ### The list of powers -/

/-- gp(0) .. gp(255), as a list. -/
theorem gpowers_eq_map (poly g : Nat) :
    gpowers poly g = (List.range 256).map (mulPower 8 poly g) := by
  apply List.ext_getElem?
  intro i
  by_cases hi : i < 256
  · simp [gpowers_getElem? poly g i hi, hi]
  · simp [gpowers, Nat.le_of_not_lt hi]

/-- The powers LOG is the inverse of: gp(0) .. gp(254). -/
theorem gpowers_take_eq_map (poly g : Nat) :
    (gpowers poly g).take 255 = (List.range 255).map (mulPower 8 poly g) := by
  simp [gpowers_eq_map, ← List.map_take, List.take_range]

/-! ### The entries of LOG (R162) -/

/-- LOG[0] is the sentinel -256. -/
theorem logTable_zero (poly g : Nat) : (logTable poly g)[0]? = some (BitVec.ofInt 9 (-256)) := by
  rw [logTable_getElem? poly g 0 (by omega), logEntry, if_pos rfl]

/-- `LOG[gp(i)] = i` for i below 255, after a passed check. -/
theorem logTable_mulPower {poly g i : Nat} (hg : IsGenerator poly g) (hi : i < 255) :
    (logTable poly g)[mulPower 8 poly g i]? = some (BitVec.ofNat 9 i) := by
  have hnodup : ((List.range 255).map (mulPower 8 poly g)).Nodup :=
    List.nodup_range.map_on fun i hi j hj =>
      hg.mulPower_injOn (List.mem_range.1 hi) (List.mem_range.1 hj)
  have hidx := hnodup.idxOf_getElem i (by simpa using hi)
  rw [List.getElem_map, List.getElem_range] at hidx
  rw [logTable_getElem? _ _ _ (mulPower_lt poly g i), logEntry, if_neg (hg.mulPower_ne_zero hi.le),
    gpowers_take_eq_map, hidx]

/-! ### The entries of EXP (R162) -/

/-- The number of powers. -/
@[simp] theorem gpowers_length (poly g : Nat) : (gpowers poly g).length = 256 :=
  powersFrom_length poly g 256 1

/-- EXP holds 0 below BIAS. -/
theorem expTable_low (poly g : Nat) {j : Nat} (hj : j < 512) : (expTable poly g)[j]? = some 0 := by
  rw [expTable_getElem?, expEntries, List.append_assoc, List.append_assoc,
    List.getElem?_append_left (by rwa [List.length_replicate]), List.getElem?_replicate_of_lt hj]
  rfl

/-- From BIAS on, EXP holds the powers, the powers but the first, and one 0. -/
theorem expTable_bias_add (poly g j : Nat) :
    (expTable poly g)[512 + j]? =
      (gpowers poly g ++ ((gpowers poly g).tail ++ [0]))[j]?.map (BitVec.ofNat 8) := by
  rw [expTable_getElem?, expEntries, List.append_assoc, List.append_assoc,
    List.getElem?_append_right (by rw [List.length_replicate]; omega), List.length_replicate,
    Nat.add_sub_cancel_left]

/-- Past the 256 powers, EXP holds them again but for the first, and one 0. -/
theorem expTable_bias_add_256_add (poly g j : Nat) :
    (expTable poly g)[512 + (256 + j)]? =
      ((gpowers poly g).tail ++ [0])[j]?.map (BitVec.ofNat 8) := by
  rw [expTable_bias_add, List.getElem?_append_right (by simp), gpowers_length,
    Nat.add_sub_cancel_left]

/-- EXP holds g^0 .. g^255 from BIAS on. -/
theorem expTable_first_period (poly g : Nat) {i : Nat} (hi : i < 256) :
    (expTable poly g)[512 + i]? = some (BitVec.ofNat 8 (mulPower 8 poly g i)) := by
  rw [expTable_bias_add, List.getElem?_append_left (by simpa using hi), gpowers_getElem? _ _ _ hi]
  rfl

/-- EXP holds g^1 .. g^255 again after that. -/
theorem expTable_second_period (poly g : Nat) {i : Nat} (hi : i < 255) :
    (expTable poly g)[768 + i]? = some (BitVec.ofNat 8 (mulPower 8 poly g (i + 1))) := by
  rw [show 768 + i = 512 + (256 + i) by omega, expTable_bias_add_256_add,
    List.getElem?_append_left (by simpa using hi), List.getElem?_tail,
    gpowers_getElem? _ _ _ (by omega)]
  rfl

/-- EXP's last entry is 0. -/
theorem expTable_last (poly g : Nat) : (expTable poly g)[1023]? = some 0 := by
  rw [show 1023 = 512 + (256 + 255) by rfl, expTable_bias_add_256_add,
    List.getElem?_append_right (by simp)]
  simp

/-- EXP over both periods: entry BIAS + j is g^(j mod 255). -/
theorem expTable_mulPower_mod {poly g j : Nat} (hg : IsGenerator poly g) (hj : j < 511) :
    (expTable poly g)[512 + j]? = some (BitVec.ofNat 8 (mulPower 8 poly g (j % 255))) := by
  by_cases hfirst : j < 256
  · rw [expTable_first_period poly g hfirst, hg.mulPower_mod]
  · obtain ⟨i, rfl⟩ : ∃ i, j = i + 256 := ⟨j - 256, by omega⟩
    have hentry := expTable_second_period poly g (i := i) (by omega)
    rwa [← hg.mulPower_mod, show (i + 1) % 255 = (i + 256) % 255 by omega,
      show 768 + i = 512 + (i + 256) by omega] at hentry

/-! ### BLDLX's completion with OK (R163) -/

/-- BLDLX of g completes with OK only for a generator g, and then leaves its tables. -/
theorem bldlx_ok {r : RegIdx} {s t : State} (h : exec (.bldlx r) s = .next t)
    (hok : t.lastCC = .ok) :
    IsGenerator (polyNat s) (operand r s) ∧ t.log = logTable (polyNat s) (operand r s) ∧
      t.exp = expTable (polyNat s) (operand r s) := by
  obtain ⟨-, rfl⟩ | ⟨c, hc, rfl⟩ := guarded_cases h
  · obtain ⟨hcheck, heq⟩ | ⟨-, heq⟩ := buildLogExp_cases (operand r s) s
    · exact ⟨(generatorCheck_iff_isGenerator _ _).1 hcheck, by rw [heq]; rfl, by rw [heq]; rfl⟩
    · rw [heq] at hok
      cases hok
  · refine absurd hok (firstError_ne_ok ?_ hc)
    simp

/-- Settles O43: a BLDLX that completes with OK has a generator (`bldlx_ok`), and the tables of a
generator are read entry by entry. -/
theorem logExpTableContents : Obligations.LogExpTableContents := by
  intro r s t _ hexec hok
  obtain ⟨hg, hlog, hexp⟩ := bldlx_ok hexec hok
  rw [hlog, hexp]
  exact ⟨rfl, hg.2, logTable_zero _ _, fun _ => logTable_mulPower hg,
    fun _ => hg.exists_mulPower_eq, fun _ => expTable_low _ _, fun _ => expTable_first_period _ _,
    fun _ => expTable_second_period _ _, expTable_last _ _, fun _ => expTable_mulPower_mod hg⟩

/-! ### The signed logs while LX_VALID = 1 -/

/-- The invariant while LX_VALID = 1: GEN is a generator, and LOG and EXP are its tables. -/
theorem BlockInv.isGenerator {s : State} (hinv : BlockInv s) (hlx : s.lxValid = true) :
    IsGenerator (polyNat s) s.gen.toNat ∧ s.log = logTable (polyNat s) s.gen.toNat ∧
      s.exp = expTable (polyNat s) s.gen.toNat := by
  have hcons := hinv.lx
  rw [LxConsistent, if_pos hlx] at hcons
  obtain ⟨-, -, hcheck, hlog, hexp⟩ := hcons
  exact ⟨(generatorCheck_iff_isGenerator _ _).1 hcheck, hlog, hexp⟩

/-- The signed log of a byte, from the entry LOG holds for it. -/
theorem logOf_of_getElem? {s : State} {a : Nat} {e : BitVec 9} (h : s.log[a]? = some e) :
    logOf s a = e.toInt := by
  obtain ⟨ha, rfl⟩ := Vector.getElem?_eq_some_iff.1 h
  simp [logOf, readLog, Nat.mod_eq_of_lt ha]

/-- The log of 0 is the sentinel. -/
theorem logOf_zero {s : State} (hinv : BlockInv s) (hlx : s.lxValid = true) :
    logOf s 0 = -256 := by
  obtain ⟨-, hlog, -⟩ := hinv.isGenerator hlx
  have hentry := logTable_zero (polyNat s) s.gen.toNat
  rw [logOf_of_getElem? (hlog ▸ hentry)]
  rfl

/-- The log of g^i is i. -/
theorem logOf_mulPower {s : State} (hinv : BlockInv s) (hlx : s.lxValid = true) {i : Nat}
    (hi : i < 255) : logOf s (mulPower 8 (polyNat s) s.gen.toNat i) = i := by
  obtain ⟨hg, hlog, -⟩ := hinv.isGenerator hlx
  have hentry := logTable_mulPower hg hi
  have hmod : i % 2 ^ 9 = i := Nat.mod_eq_of_lt (by omega)
  rw [logOf_of_getElem? (hlog ▸ hentry), BitVec.toInt_eq_toNat_of_lt] <;>
    rw [BitVec.toNat_ofNat, hmod]
  omega

/-- The log of a non-zero byte lies in [0, 254]. -/
theorem logOf_range {s : State} (hinv : BlockInv s) (hlx : s.lxValid = true) {a : Nat}
    (ha : a < 256) (hne : a ≠ 0) : 0 ≤ logOf s a ∧ logOf s a ≤ 254 := by
  obtain ⟨hg, -, -⟩ := hinv.isGenerator hlx
  obtain ⟨i, hi, rfl⟩ := hg.exists_mulPower_eq (by omega) ha
  rw [logOf_mulPower hinv hlx hi]
  omega

/-- The log of any byte lies in [-256, 254]. -/
theorem logOf_bounds {s : State} (hinv : BlockInv s) (hlx : s.lxValid = true) {a : Nat}
    (ha : a < 256) : -256 ≤ logOf s a ∧ logOf s a ≤ 254 := by
  by_cases hne : a = 0
  · simp [hne, logOf_zero hinv hlx]
  · have := logOf_range hinv hlx ha hne
    omega

/-! ### The indices of R169 -/

/-- POWX's index lies in [258, 766] whatever the log: a truncated remainder by 255 lies in
[-254, 254]. -/
theorem powxIndex_range (s : State) (a e : Nat) :
    258 ≤ powxIndex s a e ∧ powxIndex s a e ≤ 766 := by
  have hlo := Int.lt_tmod_of_pos (logOf s a * e) (b := 255) (by omega)
  have hhi := Int.tmod_lt_of_pos (logOf s a * e) (b := 255) (by omega)
  unfold powxIndex bias
  omega

/-- Settles O48: the ranges of the logs (`logOf_bounds`, `logOf_range`) carried through the three
index sums. -/
theorem expIndexRanges : Obligations.ExpIndexRanges := by
  intro s a b e hinv hlx ha hb
  refine ⟨?_, fun hne => ?_, ?_, powxIndex_range s a e⟩
  · have := logOf_bounds hinv hlx ha
    have := logOf_bounds hinv hlx hb
    unfold mulxIndex bias
    omega
  · have := logOf_range hinv hlx ha hne
    unfold invxIndex bias
    omega
  · rintro rfl
    rw [invxIndex, logOf_zero hinv hlx]
    rfl

end Sys2Proof.Machine
end

section
/-! PROOF. The carry-less product and the reduction of R134 as algebra over GF(2): MODR is the
polynomial remainder and is linear over XOR (R13, R134). -/

namespace Sys2Proof.Machine

/-! ### The carry-less product over the low bits of its second factor (R13) -/

/-- The XOR of `a << i` over every i below n with `b[i] = 1`: `clmul` cut off at bit n of b. -/
def clmulBelow (n a b : Nat) : Nat :=
  ((List.range n).filter b.testBit).foldl (fun r i => r ^^^ (a <<< i)) 0

/-- clmul takes every bit of b. -/
theorem clmul_eq_clmulBelow (a b : Nat) : clmul a b = clmulBelow (b.log2 + 1) a b := rfl

@[simp] theorem clmulBelow_zero (a b : Nat) : clmulBelow 0 a b = 0 := rfl

/-- Bit n of b adds `a << n`. -/
theorem clmulBelow_succ (n a b : Nat) :
    clmulBelow (n + 1) a b =
      if b.testBit n then clmulBelow n a b ^^^ (a <<< n) else clmulBelow n a b := by
  cases hb : b.testBit n <;>
    simp [clmulBelow, List.range_succ, hb]

/-- The product is linear in its first factor. -/
theorem clmulBelow_xor_left (n a c b : Nat) :
    clmulBelow n (a ^^^ c) b = clmulBelow n a b ^^^ clmulBelow n c b := by
  induction n with
  | zero => simp
  | succ n ih =>
    rw [clmulBelow_succ, clmulBelow_succ, clmulBelow_succ, ih, Nat.shiftLeft_xor_distrib]
    split
    · ac_rfl
    · rfl

/-- The low n + 1 bits of b are the low n bits and bit n. -/
theorem mod_two_pow_succ_eq_xor (b n : Nat) :
    b % 2 ^ (n + 1) = b % 2 ^ n ^^^ (if b.testBit n then 2 ^ n else 0) := by
  refine Nat.eq_of_testBit_eq fun i => ?_
  rw [Nat.testBit_xor, Nat.testBit_mod_two_pow, Nat.testBit_mod_two_pow]
  obtain rfl | hne := eq_or_ne i n
  · cases b.testBit i <;> simp
  · have hlt : i < n + 1 ↔ i < n := by omega
    cases b.testBit n <;> simp [hlt, Nat.testBit_two_pow_of_ne hne.symm]

/-- The product of x^m and the low n bits of b is those bits, shifted by m. -/
theorem clmulBelow_one_shiftLeft (n m b : Nat) :
    clmulBelow n (1 <<< m) b = (b % 2 ^ n) <<< m := by
  induction n with
  | zero => simp [Nat.mod_one]
  | succ n ih =>
    rw [clmulBelow_succ, ih, mod_two_pow_succ_eq_xor, Nat.shiftLeft_xor_distrib]
    split
    · rw [← Nat.one_shiftLeft, ← Nat.shiftLeft_add, ← Nat.shiftLeft_add, Nat.add_comm m n]
    · rw [Nat.zero_shiftLeft, Nat.xor_zero]

/-- clmul is linear in its first factor. -/
theorem clmul_xor_left (a c b : Nat) : clmul (a ^^^ c) b = clmul a b ^^^ clmul c b :=
  clmulBelow_xor_left _ a c b

/-- 0 times b is 0. -/
@[simp] theorem clmul_zero_left (b : Nat) : clmul 0 b = 0 := by
  simpa using clmul_xor_left 0 0 b

/-- x^m times b is b shifted by m. -/
theorem clmul_one_shiftLeft (m b : Nat) : clmul (1 <<< m) b = b <<< m := by
  rw [clmul_eq_clmulBelow, clmulBelow_one_shiftLeft, Nat.mod_eq_of_lt Nat.lt_log2_self]

/-! ### Degrees of sums (R13, R16) -/

/-- No degree is below that of 0. -/
theorem neg_one_le_deg (v : Nat) : -1 ≤ deg v := by
  unfold deg
  split <;> omega

/-- A sum has the degree of its larger summand. -/
theorem deg_xor_of_lt {u v : Nat} (h : deg u < deg v) : deg (u ^^^ v) = deg v := by
  have hv : v ≠ 0 := by
    rintro rfl
    have := neg_one_le_deg u
    rw [deg_zero] at h
    omega
  rw [deg_of_ne_zero hv] at h ⊢
  have hu : u < 2 ^ v.log2 := (deg_lt_iff _ _).1 h
  have htop : (u ^^^ v).testBit v.log2 = true := by
    rw [Nat.testBit_xor, Nat.testBit_lt_two_pow hu, Nat.testBit_log2 hv]
    rfl
  have hlo := (le_deg_iff _ _).2 (Nat.ge_two_pow_of_testBit htop)
  have hhi := (deg_lt_iff _ _).2 (Nat.xor_lt_two_pow
    (hu.trans (Nat.pow_lt_pow_right Nat.one_lt_two (Nat.lt_succ_self _))) Nat.lt_log2_self)
  omega

/-- FULL_POLY shifted by n has degree k + n. -/
theorem deg_fullPolyOf_shiftLeft {k poly : Nat} (hp : poly < 2 ^ k) (n : Nat) :
    deg (fullPolyOf k poly <<< n) = k + n := by
  obtain ⟨hne, hlog⟩ := fullPolyOf_log2 hp
  rw [deg_of_ne_zero (shiftLeft_ne_zero hne n), log2_shiftLeft_of_ne_zero hne, hlog]
  rfl

/-- FULL_POLY is POLY plus x^k. -/
theorem fullPolyOf_eq_xor {k poly : Nat} (hp : poly < 2 ^ k) :
    fullPolyOf k poly = poly ^^^ 2 ^ k := by
  refine Nat.eq_of_testBit_eq fun i => ?_
  by_cases hi : k = i
  · subst hi
    simp [fullPolyOf, Nat.testBit_lt_two_pow hp]
  · simp [fullPolyOf, Nat.testBit_two_pow_of_ne hi]

/-! ### MODR's answer does not see multiples of FULL_POLY (R134) -/

section Reduction

variable {k poly : Nat} (hp : poly < 2 ^ k)
include hp

/-- One turn of R134's loop, on a value of degree k + n, adds FULL_POLY shifted by n and keeps the
answer. -/
theorem gfReduce_xor_of_deg_eq {x n : Nat} (hx : deg x = k + n) :
    gfReduce k poly (x ^^^ (fullPolyOf k poly <<< n)) = gfReduce k poly x := by
  have hturn := gfReduce_turn hp ((le_deg_iff x k).1 (by omega))
  rw [hturn, show (deg x - k).toNat = n by omega]

/-- Induction along the turns of R134's loop: a property of every value is proved below 2^k, and for
a value of degree k + n from the value its turn leaves. -/
theorem reduce_induction {P : Nat → Prop} (low : ∀ x, x < 2 ^ k → P x)
    (turn : ∀ (x n : Nat), deg x = k + n → P (x ^^^ (fullPolyOf k poly <<< n)) → P x) (x : Nat) :
    P x := by
  suffices h : ∀ n x : Nat, deg x < k + n → P x from h (deg x + 1).toNat x (by omega)
  intro n
  induction n with
  | zero => exact fun x hx => low x ((deg_lt_iff x k).1 (by omega))
  | succ n ih =>
    intro x hx
    by_cases hdeg : deg x = k + n
    · have hlower := reduce_turn_deg_lt hp ((le_deg_iff x k).1 (by omega))
      rw [show (deg x - k).toNat = n by omega] at hlower
      exact turn x n hdeg (ih _ (by omega))
    · exact ih x (by omega)

/-- Added below degree k + n, the shifted FULL_POLY is taken away again by the sum's first turn. -/
theorem gfReduce_xor_of_deg_lt {x n : Nat} (hx : deg x < k + n) :
    gfReduce k poly (x ^^^ (fullPolyOf k poly <<< n)) = gfReduce k poly x := by
  have hshift := deg_fullPolyOf_shiftLeft hp n
  have hdeg := (deg_xor_of_lt (hx.trans_eq hshift.symm)).trans hshift
  rw [← gfReduce_xor_of_deg_eq hp hdeg, Nat.xor_xor_cancel_right]

/-- Adding a shifted FULL_POLY to any value does not change MODR's answer. -/
theorem gfReduce_xor_fullPolyOf_shiftLeft (x n : Nat) :
    gfReduce k poly (x ^^^ (fullPolyOf k poly <<< n)) = gfReduce k poly x := by
  induction x using reduce_induction hp generalizing n with
  | low x hx =>
    have := (deg_lt_iff x k).2 hx
    exact gfReduce_xor_of_deg_lt hp (by omega)
  | turn x m hx ih =>
    obtain hlt | rfl | hgt := lt_trichotomy n m
    · have hdeg : deg (x ^^^ (fullPolyOf k poly <<< n)) = k + m := by
        rw [Nat.xor_comm, deg_xor_of_lt (by rw [deg_fullPolyOf_shiftLeft hp, hx]; omega), hx]
      calc gfReduce k poly (x ^^^ (fullPolyOf k poly <<< n))
        _ = gfReduce k poly (x ^^^ (fullPolyOf k poly <<< n) ^^^ (fullPolyOf k poly <<< m)) :=
          (gfReduce_xor_of_deg_eq hp hdeg).symm
        _ = gfReduce k poly (x ^^^ (fullPolyOf k poly <<< m) ^^^ (fullPolyOf k poly <<< n)) := by
          rw [Nat.xor_right_comm]
        _ = gfReduce k poly (x ^^^ (fullPolyOf k poly <<< m)) := ih n
        _ = gfReduce k poly x := gfReduce_xor_of_deg_eq hp hx
    · exact gfReduce_xor_of_deg_eq hp hx
    · exact gfReduce_xor_of_deg_lt hp (by omega)

/-- Reducing a summand first does not change MODR's answer. -/
theorem gfReduce_xor_gfReduce (x y : Nat) :
    gfReduce k poly (x ^^^ gfReduce k poly y) = gfReduce k poly (x ^^^ y) := by
  induction y using reduce_induction hp with
  | low y hy => rw [gfReduce_of_lt hy]
  | turn y n hy ih =>
    rw [gfReduce_xor_of_deg_eq hp hy, ← Nat.xor_assoc,
      gfReduce_xor_fullPolyOf_shiftLeft hp] at ih
    exact ih

/-- MODR is linear over XOR. -/
theorem gfReduce_xor (x y : Nat) :
    gfReduce k poly (x ^^^ y) = gfReduce k poly x ^^^ gfReduce k poly y := by
  have hlt := Nat.xor_lt_two_pow (gfReduce_lt hp x) (gfReduce_lt hp y)
  calc gfReduce k poly (x ^^^ y)
    _ = gfReduce k poly (y ^^^ gfReduce k poly x) := by
      rw [gfReduce_xor_gfReduce hp, Nat.xor_comm]
    _ = gfReduce k poly (gfReduce k poly x ^^^ gfReduce k poly y) := by
      rw [Nat.xor_comm, gfReduce_xor_gfReduce hp]
    _ = gfReduce k poly x ^^^ gfReduce k poly y := gfReduce_of_lt hlt

/-- A value and MODR's answer for it differ by a multiple of FULL_POLY. -/
theorem exists_xor_gfReduce_eq_clmul (x : Nat) :
    ∃ q, x ^^^ gfReduce k poly x = clmul q (fullPolyOf k poly) := by
  induction x using reduce_induction hp with
  | low x hx => exact ⟨0, by rw [gfReduce_of_lt hx, Nat.xor_self, clmul_zero_left]⟩
  | turn x n hx ih =>
    obtain ⟨q, hq⟩ := ih
    refine ⟨q ^^^ (1 <<< n), ?_⟩
    rw [clmul_xor_left, clmul_one_shiftLeft, ← hq, gfReduce_xor_of_deg_eq hp hx,
      Nat.xor_right_comm x, Nat.xor_xor_cancel_right]

/-- MODR answers the polynomial remainder by FULL_POLY. -/
theorem isRemainder_gfReduce (x : Nat) :
    IsRemainder x (fullPolyOf k poly) (gfReduce k poly x) := by
  refine ⟨?_, exists_xor_gfReduce_eq_clmul hp x⟩
  obtain ⟨hne, hlog⟩ := fullPolyOf_log2 hp
  rw [deg_of_ne_zero hne, hlog]
  exact (deg_lt_iff _ _).2 (gfReduce_lt hp x)

/-- MODR(x^k) = POLY. -/
theorem gfReduce_two_pow : gfReduce k poly (2 ^ k) = poly := by
  have h := gfReduce_xor_fullPolyOf_shiftLeft hp poly 0
  rwa [Nat.shiftLeft_zero, fullPolyOf_eq_xor hp, Nat.xor_xor_cancel_left, gfReduce_of_lt hp] at h

end Reduction

end Sys2Proof.Machine
end

section
/-! PROOF. The contents of RT after a BLDRT that completes with OK (R191, R194). -/

namespace Sys2Proof.Machine

/-- BLDRT completes with OK only at k = 16, and then leaves the table of R191. -/
theorem bldrt_ok {s t : State} (h : exec .bldrt s = .next t) (hok : t.lastCC = .ok) :
    s.ksel = .k16 ∧ t.rt = rtTable (polyNat s) := by
  obtain ⟨hpass, rfl⟩ | ⟨c, hc, rfl⟩ := guarded_cases h
  · simp only [firstError_cons_eq_none, needOrder_eq_none] at hpass
    exact ⟨hpass.2.1, rfl⟩
  · refine absurd hok (firstError_ne_ok ?_ hc)
    simp

/-- Entry i of RT as a number: MODR's answer for `i << 16` fits its 16 bits. -/
theorem rtTable_toNat {poly i : Nat} (hp : poly < 2 ^ 16) (hi : i < 256) :
    (rtTable poly)[i]?.map BitVec.toNat = some (gfReduce 16 poly (i <<< 16)) := by
  rw [rtTable_getElem? poly i hi, Option.map_some, BitVec.toNat_ofNat,
    Nat.mod_eq_of_lt (gfReduce_lt hp _)]

/-- Settles O54: entry i is MODR's answer for `i << 16` (`rtTable_toNat`), which is the remainder
(`isRemainder_gfReduce`) and linear over XOR (`gfReduce_xor`). -/
theorem rtEntriesAreRemainders : Obligations.RtEntriesAreRemainders := by
  intro s t hpoly hexec hok entry
  obtain ⟨hksel, hrt⟩ := bldrt_ok hexec hok
  have horder : order s = 16 := by rw [order, hksel]; rfl
  rw [horder] at hpoly
  have hfull : fullPoly s = fullPolyOf 16 (polyNat s) := by rw [fullPoly, horder]
  have hentry : ∀ i, i < 256 → entry i = some (gfReduce 16 (polyNat s) (i <<< 16)) := fun i hi =>
    (congrArg (fun rt => rt[i]?.map BitVec.toNat) hrt).trans (rtTable_toNat hpoly hi)
  refine ⟨fun i hi => ⟨_, gfReduce_lt hpoly _, hentry i hi, rfl, ?_⟩, ?_, ?_, ?_⟩
  · rw [hfull]
    exact isRemainder_gfReduce hpoly _
  · rw [hentry 0 (by omega), Nat.zero_shiftLeft, gfReduce_of_lt (Nat.two_pow_pos 16)]
  · rw [hentry 1 (by omega), Nat.one_shiftLeft, gfReduce_two_pow hpoly]
  · intro i j x y hi hj hx hy
    rw [hentry i hi, Option.some.injEq] at hx
    rw [hentry j hj, Option.some.injEq] at hy
    rw [hentry _ (Nat.xor_lt_two_pow (n := 8) hi hj), Nat.shiftLeft_xor_distrib,
      gfReduce_xor hpoly, hx, hy]

end Sys2Proof.Machine
end

section
/-! PROOF. An error completion is precise, and the first error in R224's order is the one reported
(R221, R223, R224). -/

namespace Sys2Proof.Machine

/-! ### Precise error completions (R223) -/

/-- A command that ends with an error leaves the state before it; BLDLX with NOT_GENERATOR leaves it
without LX_VALID and GEN. -/
theorem exec_error_cases {i : Instr} {s t : State} (h : exec i s = .next t) (herr : t.lastCC ≠ .ok) :
    (∃ c, c ≠ .notGenerator ∧ t = errorResponse c s) ∨
      ((∃ r, i = .bldlx r) ∧
        t = errorResponse .notGenerator { s with lxValid := false, gen := 0 }) := by
  obtain ⟨c, -, hc, rfl⟩ | ⟨_, _, -, rfl⟩ | ⟨-, rfl⟩ | ⟨-, rfl⟩ | ⟨_, _, -, -, rfl⟩ |
    ⟨r, hi, -, -, -, rfl⟩ | ⟨-, -, -, rfl⟩ := exec_cases h
  · exact .inl ⟨c, hc, rfl⟩
  · exact absurd rfl herr
  · exact absurd rfl herr
  · exact absurd rfl herr
  · exact absurd rfl herr
  · obtain ⟨-, heq⟩ | ⟨-, heq⟩ := buildLogExp_cases (operand r s) s
    · exact absurd (by rw [heq]; rfl) herr
    · exact .inr ⟨⟨r, hi⟩, heq⟩
  · exact absurd rfl herr

/-- A command's error completion, as the state before it, and the one command that can end with
NOT_GENERATOR. -/
theorem exec_error_precise {i : Instr} {s t : State} (h : exec i s = .next t)
    (herr : t.lastCC ≠ .ok) :
    t = errorResponse t.lastCC
        (if t.lastCC = .notGenerator then { s with lxValid := false, gen := 0 } else s) ∧
      (t.lastCC = .notGenerator → ∃ r, i = .bldlx r) := by
  obtain ⟨c, hc, rfl⟩ | ⟨hi, rfl⟩ := exec_error_cases h herr
  · exact ⟨by simp [errorResponse_eq, hc], fun hg => absurd hg hc⟩
  · exact ⟨rfl, fun _ => hi⟩

/-- Settles O20: what a command's error leaves (`exec_error_precise`), and an illegal word's. -/
theorem errorCompletionsArePrecise : Obligations.ErrorCompletionsArePrecise := by
  refine ⟨fun i s t => exec_error_precise, fun s t h herr => ?_⟩
  obtain ⟨-, rfl⟩ | ⟨i, -, hexec⟩ := runSampled_cases h
  · rfl
  · exact (exec_error_precise hexec herr).1

/-! ### The checks of R224, for every command -/

/-- The code c unless the condition holds: every check of Operands.lean is of this shape. -/
def raiseUnless (holds : Bool) (c : CC) : Option CC := if holds then none else some c

@[simp] theorem raiseUnless_true (c : CC) : raiseUnless true c = none := rfl

@[simp] theorem raiseUnless_false (c : CC) : raiseUnless false c = some c := rfl

theorem needCfg_eq_raiseUnless (s : State) : needCfg s = raiseUnless s.cfgValid .nocfg := rfl

theorem needLx_eq_raiseUnless (s : State) : needLx s = raiseUnless s.lxValid .table := rfl

theorem needRt_eq_raiseUnless (s : State) : needRt s = raiseUnless s.rtValid .table := rfl

theorem needOrder_eq_raiseUnless (k : KSel) (s : State) :
    needOrder k s = raiseUnless (s.ksel = k) .width := by
  simp [needOrder, raiseUnless]

theorem needBelow_eq_raiseUnless (n v : Nat) : needBelow n v = raiseUnless (v < n) .operand := by
  simp [needBelow, raiseUnless]

/-- R224's order over a list of checks, one check at a time. -/
theorem firstError_cons (d : Option CC) (cs : List (Option CC)) :
    firstError (d :: cs) = d.or (firstError cs) := by
  cases d <;> rfl

/-- A check of two conditions is a check of each. -/
theorem raiseUnless_and (a b : Bool) (c : CC) :
    raiseUnless (a && b) c = (raiseUnless a c).or (raiseUnless b c) := by
  cases a <;> rfl

/-- A field is configured, if the command needs one. -/
def fieldReady (s : State) (i : Instr) : Bool := !needsField i || s.cfgValid

/-- The configured order is the one the command's family needs, if it needs one. -/
def orderReady (s : State) (i : Instr) : Bool := (familyOrder i).all fun k => s.ksel = k

theorem fieldReady_eq_false (s : State) (i : Instr) :
    fieldReady s i = false ↔ needsField i = true ∧ s.cfgValid = false := by
  simp [fieldReady]

theorem orderReady_eq_false (s : State) (i : Instr) :
    orderReady s i = false ↔ ∃ k, familyOrder i = some k ∧ s.ksel ≠ k := by
  cases h : familyOrder i <;> simp [orderReady, h]

/-- The one list of checks that fits every command: R224's NOCFG, WIDTH, OPERAND and TABLE, each passed
where the command does not need it. -/
def commandChecks (i : Instr) (s : State) : List (Option CC) :=
  [raiseUnless (fieldReady s i) .nocfg,
   raiseUnless (orderReady s i) .width,
   raiseUnless (operandsInRange s i) .operand,
   raiseUnless (tablesReady s i) .table]

/-- The codes a command can end with once its checks have passed. -/
def EndsPastChecks (t : State) : Prop :=
  t.lastCC = .ok ∨ t.lastCC = .notGenerator ∨ t.lastCC = .notInvertible

theorem completeInverse_endsPastChecks (rd : RegIdx) (r : Option Nat) (s : State) :
    EndsPastChecks (completeInverse rd r s) := by
  cases r with
  | some v => exact .inl rfl
  | none => exact .inr (.inr rfl)

theorem buildLogExp_endsPastChecks (g : Nat) (s : State) : EndsPastChecks (buildLogExp g s) := by
  obtain ⟨-, heq⟩ | ⟨-, heq⟩ := buildLogExp_cases g s
  · exact heq ▸ .inl rfl
  · exact heq ▸ .inr (.inl rfl)

/-- The numbers 0..8 are CSRs (R33). -/
theorem readCsr_of_le {csr : CsrIdx} (h : csr ≤ 8) (s : State) : ∃ v, readCsr csr s = some v := by
  have hlisted : csr = 0 ∨ csr = 1 ∨ csr = 2 ∨ csr = 3 ∨ csr = 4 ∨ csr = 5 ∨ csr = 6 ∨ csr = 7 ∨
      csr = 8 := by bv_omega
  rcases hlisted with rfl | rfl | rfl | rfl | rfl | rfl | rfl | rfl | rfl <;> exact ⟨_, rfl⟩

/-- Lists of checks with the same first error guard alike. -/
theorem guarded_congr {cs ds : List (Option CC)} (h : firstError cs = firstError ds) (s t : State) :
    guarded cs s t = guarded ds s t := by
  rw [guarded, guarded, h]

/-- A well-formed command is its checks in R224's order, and past them an outcome. -/
theorem exec_eq_guarded {i : Instr} (hi : i.wellFormed = true) (s : State) :
    ∃ t, exec i s = guarded (commandChecks i s) s t ∧ EndsPastChecks t := by
  cases i
  case nop | ldi | mov | clrst => exact ⟨_, rfl, .inl rfl⟩
  case rdcsr rd csr =>
    obtain ⟨v, hv⟩ := readCsr_of_le (of_decide_eq_true hi) s
    exact ⟨completeWordToRd rd v s, by rw [exec, execRdcsr, hv]; rfl, .inl rfl⟩
  case' bldlx => refine ⟨_, guarded_congr ?_ s _, buildLogExp_endsPastChecks _ s⟩
  case' inv | div => refine ⟨_, guarded_congr ?_ s _, completeInverse_endsPastChecks _ _ s⟩
  case' cfg | add | mul | mull | modr | pow | logrd | exprd | mulx | invx | powx | nbm | bldrt |
    rtrd | msl8 | modrb | muld => refine ⟨_, guarded_congr ?_ s _, .inl rfl⟩
  all_goals
    simp [commandChecks, fieldReady, needsField, orderReady, familyOrder, operandsInRange,
      tablesReady, firstError_cons, needCfg_eq_raiseUnless, needOrder_eq_raiseUnless, needElement,
      needDouble, needBelow_eq_raiseUnless, needLx_eq_raiseUnless, needRt_eq_raiseUnless,
      raiseUnless_and, Option.or_assoc]

/-- Settles O23: an illegal word completes with ILLEGAL, and a command is guarded by the checks of R224
in their order (`exec_eq_guarded`), so that the first to raise is the one reported. -/
theorem firstErrorIsReported : Obligations.FirstErrorIsReported := by
  refine ⟨fun s e hphase hleft hrst hdec =>
    (step_of_busy_done hphase hleft hrst).trans (runSampled_of_decode_error hdec), ?_⟩
  intro i s hi nocfg width
  obtain ⟨t, hexec, hend⟩ := exec_eq_guarded hi s
  have hcfg : nocfg ↔ fieldReady s i = false := (fieldReady_eq_false s i).symm
  have horder : width ↔ orderReady s i = false := (orderReady_eq_false s i).symm
  rw [hexec, hcfg, horder, Bool.not_eq_false, Bool.not_eq_false]
  refine ⟨fun hf => guarded_of_error _ _ ?_, fun hf ho => guarded_of_error _ _ ?_,
    fun hf ho hr => guarded_of_error _ _ ?_, fun hf ho hr ht => guarded_of_error _ _ ?_,
    fun hf ho hr ht => ⟨t, guarded_of_pass _ _ ?_, hend⟩⟩
  · simp [commandChecks, hf]
  · simp [commandChecks, hf, ho]
  · simp [commandChecks, hf, ho, hr]
  · simp [commandChecks, hf, ho, hr, ht]
  · simp [commandChecks, hf, ho, hr, ht]

end Sys2Proof.Machine
end

section
/-! PROOF. A command's effects appear at the edge from BUSY to RESPOND and at no other edge but a
reset (R82, R261). -/

namespace Sys2Proof.Machine

/-! ### The state without its port -/

/-- s with the port and the model's own fields at their reset values: the X registers, the CSR fields
and the tables of s, and nothing else of it. -/
def withoutPort (s : State) : State :=
  { s with phase := .idle, pending := none, cmdWord := 0, cmdData := 0, busyLeft := 0, accepted := 0,
           inputs := [] }

@[simp] theorem withoutPort_passEdge (s : State) : withoutPort (passEdge s) = withoutPort s := rfl

@[simp] theorem withoutPort_acceptCommand (p : Pins) (s : State) :
    withoutPort (acceptCommand p s) = withoutPort s := rfl

@[simp] theorem withoutPort_waitBusy (s : State) : withoutPort (waitBusy s) = withoutPort s := rfl

@[simp] theorem withoutPort_takeResponse (s : State) :
    withoutPort (takeResponse s) = withoutPort s := rfl

/-- States agree without their ports exactly where every register, CSR field and table agrees. -/
theorem withoutPort_eq_iff (s t : State) :
    withoutPort t = withoutPort s ↔
      t.x = s.x ∧ t.ksel = s.ksel ∧ t.poly = s.poly ∧ t.gen = s.gen ∧ t.lastCC = s.lastCC ∧
        t.err = s.err ∧ t.cfgValid = s.cfgValid ∧ t.lxValid = s.lxValid ∧ t.rtValid = s.rtValid ∧
        t.rt = s.rt ∧ t.log = s.log ∧ t.exp = s.exp := by
  simp [withoutPort]

/-! ### The completing edge -/

/-- BLDLX past its checks leaves its response waiting, built or not (R163). -/
theorem buildLogExp_phase (g : Nat) (s : State) : (buildLogExp g s).phase = .respond := by
  obtain ⟨-, heq⟩ | ⟨-, heq⟩ := buildLogExp_cases g s <;> rw [heq] <;> rfl

/-- Every command leaves its response waiting (R80, R222, R223). -/
theorem exec_phase {i : Instr} {s t : State} (h : exec i s = .next t) : t.phase = .respond := by
  obtain ⟨_, -, -, rfl⟩ | ⟨_, _, -, rfl⟩ | ⟨-, rfl⟩ | ⟨-, rfl⟩ | ⟨_, _, -, -, rfl⟩ |
    ⟨_, -, -, -, -, rfl⟩ | ⟨-, -, -, rfl⟩ := exec_cases h
  exacts [rfl, rfl, rfl, rfl, rfl, buildLogExp_phase _ s, rfl]

/-- The sampled words leave their response waiting, whether or not they are a command (R88). -/
theorem runSampled_phase {s t : State} (h : runSampled s = .next t) : t.phase = .respond := by
  obtain ⟨-, rfl⟩ | ⟨_, -, hexec⟩ := runSampled_cases h
  · rfl
  · exact exec_phase hexec

/-- An edge without reset either runs the sampled words, from BUSY to RESPOND, or does not go from BUSY
to RESPOND and moves the port alone. -/
theorem step_completes_or_keeps {s t : State} (hrst : (edgePins s).rst = false)
    (h : step s = .next t) :
    ((s.phase = .busy ∧ t.phase = .respond) ∧ runSampled (passEdge s) = .next t) ∨
      (¬ (s.phase = .busy ∧ t.phase = .respond) ∧ withoutPort t = withoutPort s) := by
  obtain ⟨hreset, -⟩ | ⟨-, hphase, -, rfl⟩ | ⟨-, hphase, -, rfl⟩ | ⟨-, hphase, -, hrun⟩ |
    ⟨-, hphase, -, rfl⟩ | ⟨-, hphase, -, rfl⟩ | ⟨-, hphase, -, rfl⟩ := step_cases h
  case inl => exact absurd (hrst.symm.trans hreset) Bool.false_ne_true
  case inr.inr.inr.inl => exact .inl ⟨⟨hphase, runSampled_phase hrun⟩, hrun⟩
  all_goals exact .inr ⟨by simp [hphase], by simp⟩

/-- Settles O15: the two kinds of edge without reset (`step_completes_or_keeps`), the second read
field by field. -/
theorem effectsAppearAtOneEdge : Obligations.EffectsAppearAtOneEdge := by
  intro s t hrst h
  obtain ⟨hmove, hrun⟩ | ⟨hmove, hkeep⟩ := step_completes_or_keeps hrst h
  · exact ⟨fun hnot => absurd hmove hnot, fun _ _ => hrun⟩
  · exact ⟨fun _ => (withoutPort_eq_iff s t).1 hkeep, fun hs ht => absurd ⟨hs, ht⟩ hmove⟩

end Sys2Proof.Machine
end

section
/-! PROOF. The state after reset (R252), and NBROM as the table of carry-less products (R39). -/

namespace Sys2Proof.Machine

/-! ### MULL's loop is the carry-less product (R13, R133) -/

/-- From turn i on, n turns of R133's loop take bits i to i + n - 1 of b into the product. -/
theorem clmulLoop_eq_clmulBelow (a b n i : Nat) :
    clmulLoop b n i (a <<< i) (clmulBelow i a b) = clmulBelow (i + n) a b := by
  induction n generalizing i with
  | zero => rfl
  | succ n ih =>
    rw [clmulLoop, ← Nat.shiftLeft_add, ← clmulBelow_succ, ih, Nat.succ_add_eq_add_succ]

/-- n turns of R133's loop answer the product of a and the low n bits of b. -/
theorem clmulBits_eq_clmulBelow (n a b : Nat) : clmulBits n a b = clmulBelow n a b := by
  simpa [clmulBits] using clmulLoop_eq_clmulBelow a b n 0

/-- Past the top bit of b there is nothing left to take. -/
theorem clmulBelow_of_log2_lt {n b : Nat} (a : Nat) (h : b.log2 < n) :
    clmulBelow n a b = clmul a b := by
  induction n, h using Nat.le_induction with
  | base => rfl
  | succ n hn ih =>
    have hlt : b < 2 ^ n := Nat.lt_log2_self.trans_le (Nat.pow_le_pow_right Nat.two_pos hn)
    have hbit : b.testBit n = false := Nat.testBit_lt_two_pow hlt
    rw [clmulBelow_succ, hbit, ih]
    rfl

/-- Enough turns of R133's loop answer the whole product. -/
theorem clmulBits_eq_clmul {n b : Nat} (a : Nat) (hn : 0 < n) (hb : b < 2 ^ n) :
    clmulBits n a b = clmul a b := by
  rw [clmulBits_eq_clmulBelow, clmulBelow_of_log2_lt]
  obtain rfl | hne := eq_or_ne b 0
  · simpa using hn
  · exact (Nat.log2_lt hne).2 hb

/-- The entry of NBROM at `(n << 8) | x` is the product of the byte x and the nibble n (R39). -/
theorem nbRom_eq_clmul {n x : Nat} (hn : n < 16) (hx : x < 256) :
    nbRom ((n <<< 8) ||| x) = clmul x n := by
  have hindex : (n <<< 8) ||| x = n * 256 + x := by
    rw [← Nat.shiftLeft_add_eq_or_of_lt (i := 8) hx, Nat.shiftLeft_eq]
  have hbyte : (n * 256 + x) % 256 = x := by omega
  have hnibble : (n * 256 + x) / 256 = n := by omega
  rw [nbRom, hindex, hbyte, hnibble, clmulBits_eq_clmul x (by omega) hn]

/-! ### The values of R252 -/

/-- Every X register is 0 after reset. -/
theorem readReg_reset (r : RegIdx) : readReg r State.reset = 0 := by
  simp [readReg, State.reset]

/-- Settles O7: the X registers (`readReg_reset`), the fields and their CSR views, which evaluate to
R252's values, and NBROM (`nbRom_eq_clmul`). -/
theorem resetStateValues : Obligations.ResetStateValues :=
  ⟨readReg_reset, rfl, rfl, rfl, rfl, rfl, rfl, rfl, rfl, rfl, rfl, rfl, rfl, rfl, rfl, rfl, rfl, rfl,
    rfl, rfl, fun _ _ => nbRom_eq_clmul⟩

end Sys2Proof.Machine
end

section
/-! PROOF. The encoder and the decoder are inverse to each other on the words R88 does not call
illegal (R83 to R88). -/

namespace Sys2Proof.Machine

/-! ### The fields of a packed word (R83) -/

section Fields

variable (op : BitVec 8) (rd rs1 rs2 : RegIdx) (fn : BitVec 4)

open BitVec (extractLsb'_append_eq_of_le extractLsb'_append_eq_right)

@[simp] theorem fieldOp_packWord : fieldOp (packWord op rd rs1 rs2 fn) = op :=
  extractLsb'_append_eq_right

@[simp] theorem fieldRd_packWord : fieldRd (packWord op rd rs1 rs2 fn) = rd :=
  (extractLsb'_append_eq_of_le (by decide)).trans extractLsb'_append_eq_right

@[simp] theorem fieldRs1_packWord : fieldRs1 (packWord op rd rs1 rs2 fn) = rs1 :=
  (extractLsb'_append_eq_of_le (by decide)).trans <|
    (extractLsb'_append_eq_of_le (by decide)).trans extractLsb'_append_eq_right

@[simp] theorem fieldRs2_packWord : fieldRs2 (packWord op rd rs1 rs2 fn) = rs2 :=
  (extractLsb'_append_eq_of_le (by decide)).trans <|
    (extractLsb'_append_eq_of_le (by decide)).trans <|
      (extractLsb'_append_eq_of_le (by decide)).trans extractLsb'_append_eq_right

@[simp] theorem fieldFn_packWord : fieldFn (packWord op rd rs1 rs2 fn) = fn :=
  (extractLsb'_append_eq_of_le (by decide)).trans <|
    (extractLsb'_append_eq_of_le (by decide)).trans <|
      (extractLsb'_append_eq_of_le (by decide)).trans <|
        (extractLsb'_append_eq_of_le (by decide)).trans extractLsb'_append_eq_right

end Fields

open BitVec (extractLsb'_append_extractLsb'_eq_extractLsb') in
/-- A word whose RSV is 0 is packed from its fields. -/
theorem packWord_fields {c : CmdWord} (hrsv : c.extractLsb' 21 11 = 0#11) :
    packWord (fieldOp c) (fieldRd c) (fieldRs1 c) (fieldRs2 c) (fieldFn c) = c := by
  unfold packWord fieldOp fieldRd fieldRs1 fieldRs2 fieldFn
  rw [← hrsv, extractLsb'_append_extractLsb'_eq_extractLsb' (show 21 = 17 + 4 from rfl),
    extractLsb'_append_extractLsb'_eq_extractLsb' (show 17 = 14 + 3 from rfl),
    extractLsb'_append_extractLsb'_eq_extractLsb' (show 14 = 11 + 3 from rfl),
    extractLsb'_append_extractLsb'_eq_extractLsb' (show 11 = 8 + 3 from rfl),
    extractLsb'_append_extractLsb'_eq_extractLsb' (show 8 = 0 + 8 from rfl)]
  exact BitVec.extractLsb'_eq_self

/-! ### KSEL's encodings (R7) -/

@[simp] theorem kselOfBits_kselBits (k : KSel) : kselOfBits (kselBits k) = k := by
  cases k <;> rfl

@[simp] theorem kselBits_kselOfBits (b : BitVec 2) : kselBits (kselOfBits b) = b := by
  revert b
  decide

/-- The low half of CFG's FN is KSEL (R84). -/
@[simp] theorem low_append_kselBits (k : KSel) :
    (0#2 ++ kselBits k).extractLsb' 0 2 = kselBits k :=
  BitVec.extractLsb'_append_eq_right

/-! ### Decoding an encoded command -/

open Laws.EncodeMatchesRow in
/-- Every command's word matches its row of R86. -/
theorem encodeCmd_matchesRow : ∀ i : Instr, Statement i
  | .nop => nop
  | .ldi rd imm => ldi rd imm
  | .mov rd rs1 => mov rd rs1
  | .rdcsr rd csr => rdcsr rd csr
  | .cfg ksel rs1 => cfg ksel rs1
  | .clrst => clrst
  | .add rd rs1 rs2 => add rd rs1 rs2
  | .mul rd rs1 rs2 => mul rd rs1 rs2
  | .mull rd rs1 rs2 => mull rd rs1 rs2
  | .modr rd rs1 => modr rd rs1
  | .inv rd rs1 => inv rd rs1
  | .div rd rs1 rs2 => div rd rs1 rs2
  | .pow rd rs1 rs2 => pow rd rs1 rs2
  | .bldlx rs1 => bldlx rs1
  | .logrd rd rs1 => logrd rd rs1
  | .exprd rd rs1 => exprd rd rs1
  | .mulx rd rs1 rs2 => mulx rd rs1 rs2
  | .invx rd rs1 => invx rd rs1
  | .powx rd rs1 rs2 => powx rd rs1 rs2
  | .nbm rd rs1 rs2 => nbm rd rs1 rs2
  | .bldrt => bldrt
  | .rtrd rd rs1 => rtrd rd rs1
  | .msl8 rd rs1 => msl8 rd rs1
  | .modrb rd rs1 => modrb rd rs1
  | .muld rd rs1 rs2 => muld rd rs1 rs2

/-- The row of a command's format takes the command's word. -/
theorem decodeRow_encodeCmd (i j : Instr) : decodeRow (formatOf i) (encodeCmd i) j = .ok j := by
  obtain ⟨hop, hmask, -⟩ := encodeCmd_matchesRow i
  rw [decodeRow, hop, if_pos hmask]

/-- Settles O1: the opcode selects the command's row, the row takes the word
(`decodeRow_encodeCmd`), and the fields read back what was packed; RDCSR's row also
asks for a number up to 8. -/
theorem decodeOfEncode : Obligations.DecodeOfEncode := by
  intro i hi
  have hrow := decodeRow_encodeCmd i i
  cases i
  case rdcsr rd csr =>
    have hcsr : csr ≤ 8#4 := of_decide_eq_true hi
    simp [encodeCmd, formatOf] at hrow
    simp [encode, encodeCmd, decode, hrow, hcsr]
  all_goals simpa [encode, encodeData, encodeCmd, decode, formatOf] using hrow

/-! ### Encoding a decoded command -/

/-- A row answers its command, and only where `(CMD & mask) == OP`. -/
theorem decodeRow_eq_ok {f : Format} {c : CmdWord} {i j : Instr} (h : decodeRow f c i = .ok j) :
    c &&& formatMask f = (fieldOp c).setWidth 32 ∧ i = j := by
  unfold decodeRow at h
  split at h
  next hmask => exact ⟨hmask, by simpa using h⟩
  next => cases h

/-- The bits above the opcode that a mask holds are 0 in a word that matches. -/
theorem extractLsb'_eq_zero_of_masked {c m : CmdWord} {op : BitVec 8} {start len : Nat}
    (hc : c &&& m = op.setWidth 32) (hstart : 8 ≤ start)
    (hm : m.extractLsb' start len = BitVec.allOnes len) : c.extractLsb' start len = 0#len := by
  have h := congrArg (BitVec.extractLsb' start len) hc
  rw [BitVec.extractLsb'_and, hm, BitVec.and_allOnes] at h
  rw [h]
  ext i hi
  simpa using fun hop => BitVec.getLsbD_of_ge op _ (by omega)

/-- The word packed from the fields a format has, the others 0 (R85). -/
def repack (c : CmdWord) : Format → CmdWord
  | .n => packWord (fieldOp c) 0 0 0 0
  | .d => packWord (fieldOp c) (fieldRd c) 0 0 0
  | .r1 => packWord (fieldOp c) (fieldRd c) (fieldRs1 c) 0 0
  | .r2 => packWord (fieldOp c) (fieldRd c) (fieldRs1 c) (fieldRs2 c) 0
  | .s => packWord (fieldOp c) 0 (fieldRs1 c) 0 0
  | .c => packWord (fieldOp c) 0 (fieldRs1 c) 0 (0#2 ++ (fieldFn c).extractLsb' 0 2)
  | .x => packWord (fieldOp c) (fieldRd c) 0 0 (fieldFn c)

/-- FN is KSEL's two bits where the two above them are 0. -/
theorem append_low_fieldFn {c : CmdWord} (h : c.extractLsb' 19 2 = 0#2) :
    0#2 ++ (fieldFn c).extractLsb' 0 2 = fieldFn c := by
  have hlow : (fieldFn c).extractLsb' 0 2 = c.extractLsb' 17 2 := by
    ext i hi
    have hi4 : i < 4 := by omega
    simp [fieldFn, hi4]
  rw [hlow, ← h, BitVec.extractLsb'_append_extractLsb'_eq_extractLsb' (show 19 = 17 + 2 from rfl)]
  rfl

/-- A word that matches its format's mask has no bits but those of the format's fields. -/
theorem repack_of_masked {c : CmdWord} {f : Format}
    (h : c &&& formatMask f = (fieldOp c).setWidth 32) : repack c f = c := by
  have hzero : ∀ {start len}, 8 ≤ start →
      (formatMask f).extractLsb' start len = BitVec.allOnes len → c.extractLsb' start len = 0#len :=
    fun hs hm => extractLsb'_eq_zero_of_masked h hs hm
  have hrd : (formatMask f).extractLsb' 8 3 = BitVec.allOnes 3 → fieldRd c = 0 := hzero (by decide)
  have hrs1 : (formatMask f).extractLsb' 11 3 = BitVec.allOnes 3 → fieldRs1 c = 0 :=
    hzero (by decide)
  have hrs2 : (formatMask f).extractLsb' 14 3 = BitVec.allOnes 3 → fieldRs2 c = 0 :=
    hzero (by decide)
  have hfn : (formatMask f).extractLsb' 17 4 = BitVec.allOnes 4 → fieldFn c = 0 := hzero (by decide)
  have hksel : (formatMask f).extractLsb' 19 2 = BitVec.allOnes 2 → _ :=
    fun hm => append_low_fieldFn (hzero (by decide) hm)
  have hpack := packWord_fields (hzero (by decide) (by cases f <;> rfl))
  cases f
  case n => rwa [hrd rfl, hrs1 rfl, hrs2 rfl, hfn rfl] at hpack
  case d => rwa [hrs1 rfl, hrs2 rfl, hfn rfl] at hpack
  case r1 => rwa [hrs2 rfl, hfn rfl] at hpack
  case r2 => rwa [hfn rfl] at hpack
  case s => rwa [hrd rfl, hrs2 rfl, hfn rfl] at hpack
  case c => rwa [hrd rfl, hrs2 rfl, ← hksel rfl] at hpack
  case x => rwa [hrs1 rfl, hrs2 rfl] at hpack

/-- Settles O2: the row that answered matches the word's mask, so the word is packed from its
format's fields (`repack_of_masked`), and these are the command's operands. -/
theorem decodedWordsEncodeBack : Obligations.DecodedWordsEncodeBack := by
  intro c d i h
  unfold decode at h
  split at h
  case h_4 hop =>
    split at h
    next j hrow =>
      obtain ⟨hmask, rfl⟩ := decodeRow_eq_ok hrow
      have hpack := repack_of_masked hmask
      split at h <;> cases h
      next hfn =>
        exact ⟨decide_eq_true hfn, by simpa [repack, encodeCmd, hop] using hpack,
          by simp [encodeData, hop]⟩
    next => cases h
  case h_26 => cases h
  all_goals
    next hop =>
      obtain ⟨hmask, rfl⟩ := decodeRow_eq_ok h
      have hpack := repack_of_masked hmask
      exact ⟨rfl, by simpa [repack, encodeCmd, hop] using hpack, by simp [encodeData, hop]⟩

/-! ### Sample words, and the data word -/

/-- Settles O4: the decoder evaluates on each word. -/
theorem sampleWordsDecode : Obligations.SampleWordsDecode := by
  refine ⟨?_, ?_, ?_, ?_, ?_, ?_, ?_⟩ <;> decide

/-- Settles O5: every arm of the decoder but LDI's is free of the data word, and LDI's answers
with all of it. -/
theorem onlyLdiReadsData : Obligations.OnlyLdiReadsData := by
  intro c d d'
  refine ⟨fun hop => ?_, fun hop i h => ?_⟩
  · unfold decode
    split
    case h_2 hldi => exact absurd hldi hop
    all_goals rfl
  · have hdec : decode c d = decodeRow .d c (.ldi (fieldRd c) d) := by simp [decode, hop]
    exact (decodeRow_eq_ok (hdec.symm.trans h)).2.symm

end Sys2Proof.Machine
end

section
/-! PROOF. The invariant holds at reset, and every rising edge of clk keeps it (R34, R36, R38, R43,
R44). -/

namespace Sys2Proof.Machine

/-- What the invariant says of the field registers, the valid bits and the tables: the part that a
command can read and write. -/
structure FieldInv (s : State) : Prop where
  polyBelow : polyNat s < 2 ^ order s
  unconfigured : s.cfgValid = false → s.ksel = .k4 ∧ s.poly = 0
  lx : LxConsistent s
  rt : RtConsistent s

theorem BlockInv.fieldInv {s : State} (h : BlockInv s) : FieldInv s :=
  ⟨h.polyBelow, h.unconfigured, h.lx, h.rt⟩

/-- The field registers and tables of an IDLE block at reset meet the invariant, whatever the host's
samples and the counter are. -/
theorem blockInv_resetEdge (s : State) : BlockInv (resetEdge s) where
  polyBelow := Nat.two_pow_pos 4
  unconfigured _ := ⟨rfl, rfl⟩
  lx := rfl
  rt h := Bool.noConfusion h
  port := ⟨by simp, by simp⟩
  errSticky h := absurd rfl h

/-- Settles O16: the state after reset is what a reset edge leaves of it. -/
theorem invHoldsAtReset : Obligations.InvHoldsAtReset := blockInv_resetEdge State.reset

/-! ### Completions -/

section Completions

variable {s : State} (h : FieldInv s)
include h

/-- An OK completion of a state with consistent fields meets the invariant. -/
theorem FieldInv.blockInv_completeOk (v : Word) : BlockInv (completeOk v s) where
  polyBelow := h.polyBelow
  unconfigured := h.unconfigured
  lx := h.lx
  rt := h.rt
  port := ⟨by simp, by rintro c w hp; cases hp; simp⟩
  errSticky hne := absurd rfl hne

/-- So does an OK completion that wrote a register. -/
theorem FieldInv.blockInv_completeWordToRd (rd : RegIdx) (v : Word) :
    BlockInv (completeWordToRd rd v s) :=
  FieldInv.blockInv_completeOk (s := writeReg rd v s) ⟨h.polyBelow, h.unconfigured, h.lx, h.rt⟩ v

/-- So does an error completion, which sets ERR and answers 0. -/
theorem FieldInv.blockInv_completeError (c : CC) : BlockInv (completeError c s) where
  polyBelow := h.polyBelow
  unconfigured := h.unconfigured
  lx := h.lx
  rt := h.rt
  port := ⟨by simp, by rintro d w hp; cases hp; simp⟩
  errSticky _ := rfl

/-- Without the LOG and EXP tables, GEN is 0. -/
theorem FieldInv.dropLx : FieldInv { s with lxValid := false, gen := 0 } :=
  ⟨h.polyBelow, h.unconfigured, rfl, h.rt⟩

/-- BLDLX, past its checks, leaves the tables of the generator in GEN or none (R163). -/
theorem FieldInv.blockInv_buildLogExp {g : Nat} (hcfg : s.cfgValid = true) (hk : s.ksel = .k8)
    (hg : g < 256) : BlockInv (buildLogExp g s) := by
  obtain ⟨hcheck, heq⟩ | ⟨-, heq⟩ := buildLogExp_cases g s
  · rw [heq]
    have hgen : (BitVec.ofNat 8 g).toNat = g := Nat.mod_eq_of_lt hg
    have hbuilt : FieldInv { s with
        log := logTable (polyNat s) g, exp := expTable (polyNat s) g, lxValid := true,
        gen := BitVec.ofNat 8 g } :=
      ⟨h.polyBelow, h.unconfigured, by
        simp only [LxConsistent, if_true, hgen]
        exact ⟨hcfg, hk, hcheck, rfl, rfl⟩, h.rt⟩
    exact hbuilt.blockInv_completeOk 0
  · rw [heq]
    exact h.dropLx.blockInv_completeError .notGenerator

/-- BLDRT, past its checks, leaves the table of the current POLY (R194). -/
theorem FieldInv.blockInv_buildRt (hcfg : s.cfgValid = true) (hk : s.ksel = .k16) :
    BlockInv (buildRt s) :=
  FieldInv.blockInv_completeOk (s := { s with rt := rtTable (polyNat s), rtValid := true })
    ⟨h.polyBelow, h.unconfigured, h.lx, fun _ => ⟨hcfg, hk, rfl⟩⟩ 0

end Completions

/-- CFG's field has POLY below 2^k and no tables (R114). -/
theorem fieldInv_configureField {k : KSel} {p : Nat} (hp : p < 2 ^ kselOrder k) (s : State) :
    FieldInv (configureField k p s) where
  polyBelow := (Nat.mod_le _ _).trans_lt hp
  unconfigured h := Bool.noConfusion h
  lx := rfl
  rt h := Bool.noConfusion h

/-! ### Edges -/

/-- Every command leaves the invariant. -/
theorem exec_blockInv {i : Instr} {s t : State} (hs : FieldInv s) (h : exec i s = .next t) :
    BlockInv t := by
  obtain ⟨c, -, -, rfl⟩ | ⟨rd, v, -, rfl⟩ | ⟨-, rfl⟩ | ⟨-, rfl⟩ | ⟨k, r, -, hp, rfl⟩ |
    ⟨r, -, hcfg, hk, hg, rfl⟩ | ⟨-, hcfg, hk, rfl⟩ := exec_cases h
  · exact hs.blockInv_completeError c
  · exact hs.blockInv_completeWordToRd rd v
  · exact hs.blockInv_completeOk 0
  · exact FieldInv.blockInv_completeOk (s := { s with err := false })
      ⟨hs.polyBelow, hs.unconfigured, hs.lx, hs.rt⟩ 0
  · exact (fieldInv_configureField hp s).blockInv_completeOk 0
  · exact hs.blockInv_buildLogExp hcfg hk hg
  · exact hs.blockInv_buildRt hcfg hk

/-- Sampled words leave the invariant, whether or not they are a command. -/
theorem runSampled_blockInv {s t : State} (hs : FieldInv s) (h : runSampled s = .next t) :
    BlockInv t := by
  obtain ⟨-, rfl⟩ | ⟨i, -, hexec⟩ := runSampled_cases h
  · exact hs.blockInv_completeError .illegal
  · exact exec_blockInv hs hexec

/-- Outside RESPOND nothing is pending. -/
theorem BlockInv.pending_eq_none {s : State} (h : BlockInv s) (hp : s.phase ≠ .respond) :
    s.pending = none := by
  simpa using h.port.1.not.1 hp

/-- Settles O17: each kind of edge (`step_cases`) keeps the invariant; the completing edge
leaves it by `runSampled_blockInv`, and the others move the port alone. -/
theorem stepKeepsInv : Obligations.StepKeepsInv := by
  intro s t hs h
  have hpass : BlockInv (passEdge s) :=
    ⟨hs.polyBelow, hs.unconfigured, hs.lx, hs.rt, hs.port, hs.errSticky⟩
  obtain ⟨-, rfl⟩ | ⟨-, hp, -, rfl⟩ | ⟨-, -, -, rfl⟩ | ⟨-, -, -, hrun⟩ | ⟨-, -, -, rfl⟩ |
    ⟨-, -, -, rfl⟩ | ⟨-, -, -, rfl⟩ := step_cases h
  · exact blockInv_resetEdge _
  · have hnone : s.pending = none := hs.pending_eq_none (by simp [hp])
    exact ⟨hs.polyBelow, hs.unconfigured, hs.lx, hs.rt, ⟨by simp [hnone], by simp [hnone]⟩,
      hs.errSticky⟩
  · exact hpass
  · exact runSampled_blockInv hpass.fieldInv hrun
  · exact ⟨hs.polyBelow, hs.unconfigured, hs.lx, hs.rt, hs.port, hs.errSticky⟩
  · exact ⟨hs.polyBelow, hs.unconfigured, hs.lx, hs.rt, ⟨by simp, by simp⟩, hs.errSticky⟩
  · exact hpass

end Sys2Proof.Machine
end

section
/-! PROOF. Contents of RT, LOG and EXP while their valid bit is 0 are unobservable (R40 to R42). -/

namespace Sys2Proof.Machine

/-- s with other table memories. -/
def withTables (rt : Vector (BitVec 16) 256) (log : Vector (BitVec 9) 256)
    (exp : Vector (BitVec 8) 1024) (s : State) : State :=
  { s with rt := rt, log := log, exp := exp }

/-- The tables that s marks valid are the ones given. -/
def TablesAgree (rt : Vector (BitVec 16) 256) (log : Vector (BitVec 9) 256)
    (exp : Vector (BitVec 8) 1024) (s : State) : Prop :=
  (s.rtValid = true → rt = s.rt) ∧ (s.lxValid = true → log = s.log ∧ exp = s.exp)

/-- States that differ only in hidden table contents are s and s with other tables. -/
theorem sameButHidden_iff (s t : State) :
    SameButHidden s t ↔ ∃ rt log exp, t = withTables rt log exp s ∧ TablesAgree rt log exp s := by
  constructor
  · exact fun ⟨ht, hagree⟩ => ⟨_, _, _, ht, hagree⟩
  · rintro ⟨rt, log, exp, rfl, hagree⟩
    exact ⟨rfl, hagree⟩

/-- The outcome r' is the outcome r but for hidden table contents. -/
def Follows (r r' : Result) : Prop :=
  ∀ s', r = .next s' → ∃ t', r' = .next t' ∧ SameButHidden s' t'

theorem follows_next {s t : State} (h : SameButHidden s t) : Follows (.next s) (.next t) := by
  rintro s' ⟨⟩
  exact ⟨t, rfl, h⟩

section

variable {rt : Vector (BitVec 16) 256} {log : Vector (BitVec 9) 256} {exp : Vector (BitVec 8) 1024}
  {s : State} (h : TablesAgree rt log exp s)
include h

/-- A guarded command sees no hidden contents if its checks do not, and its outcome does not once
they pass. -/
theorem guarded_follows {cs : List (Option CC)} {u w : State}
    (hpass : firstError cs = none → SameButHidden u w) :
    Follows (guarded cs s u) (guarded cs (withTables rt log exp s) w) := by
  cases hc : firstError cs with
  | none =>
    rw [guarded_of_pass _ _ hc, guarded_of_pass _ _ hc]
    exact follows_next (hpass hc)
  | some c =>
    rw [guarded_of_error _ _ hc, guarded_of_error _ _ hc]
    exact follows_next ⟨rfl, h⟩

/-- BLDLX builds both tables or clears their valid bit. -/
theorem buildLogExp_sameButHidden (g : Nat) :
    SameButHidden (buildLogExp g s) (buildLogExp g (withTables rt log exp s)) := by
  have hpoly : polyNat (withTables rt log exp s) = polyNat s := rfl
  cases hg : generatorCheck (polyNat s) g <;> simp only [buildLogExp, hpoly, hg, if_true]
  · exact ⟨rfl, h.1, fun hlx => Bool.noConfusion hlx⟩
  · exact ⟨rfl, h.1, fun _ => ⟨rfl, rfl⟩⟩

/-- INV and DIV read no table. -/
theorem completeInverse_sameButHidden (rd : RegIdx) (r : Option Nat) :
    SameButHidden (completeInverse rd r s) (completeInverse rd r (withTables rt log exp s)) := by
  cases r <;> exact ⟨rfl, h⟩

/-- No command sees hidden contents: commands that read a table check its valid bit first, and the
others compute without one. -/
theorem exec_follows (i : Instr) : Follows (exec i s) (exec i (withTables rt log exp s)) := by
  cases i
  case nop | ldi | mov | clrst => exact follows_next ⟨rfl, h⟩
  case rdcsr rd csr =>
    have hread : readCsr csr (withTables rt log exp s) = readCsr csr s := rfl
    simp only [exec, execRdcsr, hread]
    cases readCsr csr s <;> exact follows_next ⟨rfl, h⟩
  case cfg =>
    exact guarded_follows h fun _ =>
      ⟨rfl, fun hv => Bool.noConfusion hv, fun hv => Bool.noConfusion hv⟩
  case add | mul | mull | modr | pow | nbm => exact guarded_follows h fun _ => ⟨rfl, h⟩
  case inv | div => exact guarded_follows h fun _ => completeInverse_sameButHidden h _ _
  case bldlx => exact guarded_follows h fun _ => buildLogExp_sameButHidden h _
  case bldrt => exact guarded_follows h fun _ => ⟨rfl, fun _ => rfl, h.2⟩
  case logrd | exprd | mulx | invx | powx =>
    refine guarded_follows h fun hpass => ?_
    have hlx := (needLx_eq_none s).1 ((firstError_eq_none _).1 hpass _ (by simp))
    obtain ⟨rfl, rfl⟩ := h.2 hlx
    exact ⟨rfl, h⟩
  case rtrd | msl8 | modrb | muld =>
    refine guarded_follows h fun hpass => ?_
    have hrt := (needRt_eq_none s).1 ((firstError_eq_none _).1 hpass _ (by simp))
    obtain rfl := h.1 hrt
    exact ⟨rfl, h⟩

/-- Nor do sampled words, since the decoder reads no table. -/
theorem runSampled_follows : Follows (runSampled s) (runSampled (withTables rt log exp s)) := by
  have hdec : decode (withTables rt log exp s).cmdWord (withTables rt log exp s).cmdData =
    decode s.cmdWord s.cmdData := rfl
  unfold runSampled
  rw [hdec]
  cases decode s.cmdWord s.cmdData with
  | ok i => exact exec_follows h i
  | error e => exact follows_next ⟨rfl, h⟩

/-- A command transfer sees no hidden contents: the latency has them out of its view (log 2). -/
theorem acceptCommand_sameButHidden (p : Pins) :
    SameButHidden (acceptCommand p s) (acceptCommand p (withTables rt log exp s)) := by
  have hview := latencyView_of_sameButHidden (t := withTables rt log exp s) ⟨rfl, h⟩
  refine ⟨?_, h⟩
  simp only [acceptCommand, hview]
  rfl

/-- No rising edge sees hidden contents. -/
theorem clockEdge_follows (p : Pins) :
    Follows (clockEdge p s) (clockEdge p (withTables rt log exp s)) := by
  have hsame : SameButHidden s (withTables rt log exp s) := ⟨rfl, h⟩
  have hphase : (withTables rt log exp s).phase = s.phase := rfl
  have hleft : (withTables rt log exp s).busyLeft = s.busyLeft := rfl
  have hcmd : commandTransfers p (withTables rt log exp s) = commandTransfers p s := rfl
  have hrsp : responseTransfers p (withTables rt log exp s) = responseTransfers p s := rfl
  unfold clockEdge
  rw [hphase, hleft, hcmd, hrsp]
  cases p.rst
  · cases s.phase
    · cases commandTransfers p s
      · exact follows_next hsame
      · exact follows_next (acceptCommand_sameButHidden h p)
    · by_cases hb : s.busyLeft = 0
      · simpa [hb] using runSampled_follows h
      · have hwait : SameButHidden (waitBusy s) (waitBusy (withTables rt log exp s)) := ⟨rfl, h⟩
        simpa [hb] using follows_next hwait
    · cases responseTransfers p s <;> exact follows_next ⟨rfl, h⟩
  · exact follows_next ⟨rfl, fun hv => Bool.noConfusion hv, fun hv => Bool.noConfusion hv⟩

end

/-- Settles O18: the tables of t in place of those of s, an edge answers the same but for hidden
contents (`clockEdge_follows`). -/
theorem unbuiltTablesAreUnobservable : Obligations.UnbuiltTablesAreUnobservable := by
  intro s t s' hst h
  obtain ⟨rt, log, exp, rfl, hagree⟩ := (sameButHidden_iff s t).1 hst
  exact clockEdge_follows (s := passEdge s) hagree (edgePins s) s' h

end Sys2Proof.Machine
end

section
/-! PROOF. What every command's completion answers, changes and keeps (R31, R33 to R42, R221 to
R223). -/

namespace Sys2Proof.Machine

/-! ### Every command completes (R222, R223, R262) -/

/-- Every command answers a next state. -/
theorem exec_next (i : Instr) (s : State) : ∃ t, exec i s = .next t := by
  cases i
  case nop | ldi | mov | clrst => exact ⟨_, rfl⟩
  case rdcsr rd csr =>
    simp only [exec, execRdcsr]
    cases readCsr csr s <;> exact ⟨_, rfl⟩
  all_goals exact guarded_next _ _ _

/-- BLDLX past its checks answers the code it leaves in LASTCC, with result 0. -/
theorem buildLogExp_pending (g : Nat) (s : State) :
    (buildLogExp g s).pending = some ((buildLogExp g s).lastCC, 0) := by
  obtain ⟨-, heq⟩ | ⟨-, heq⟩ := buildLogExp_cases g s <;> rw [heq] <;> rfl

/-- Every command's response carries the code in LASTCC. -/
theorem exec_pending {i : Instr} {s t : State} (h : exec i s = .next t) :
    ∃ v, t.pending = some (t.lastCC, v) := by
  obtain ⟨_, -, -, rfl⟩ | ⟨_, v, -, rfl⟩ | ⟨-, rfl⟩ | ⟨-, rfl⟩ | ⟨_, _, -, -, rfl⟩ |
    ⟨r, -, -, -, -, rfl⟩ | ⟨-, -, -, rfl⟩ := exec_cases h
  exacts [⟨0, rfl⟩, ⟨v, rfl⟩, ⟨0, rfl⟩, ⟨0, rfl⟩, ⟨0, rfl⟩, ⟨0, buildLogExp_pending _ s⟩, ⟨0, rfl⟩]

/-- Settles O19: a command answers a next state, in RESPOND (`exec_phase`), with its code
pending. -/
theorem everyCommandCompletes : Obligations.EveryCommandCompletes := by
  intro i s
  obtain ⟨t, ht⟩ := exec_next i s
  obtain ⟨v, hv⟩ := exec_pending ht
  exact ⟨t, v, ht, exec_phase ht, hv⟩

/-! ### OK completions (R31, R222) -/

/-- Settles O21: of the completions a command can have (`exec_cases`), those with OK answer what
they wrote, and only CLRST's changes ERR. -/
theorem okCompletionsAnswerTheirResult : Obligations.OkCompletionsAnswerTheirResult := by
  intro i s t h hok
  obtain ⟨c, hc, -, rfl⟩ | ⟨rd, v, hrd, rfl⟩ | ⟨rfl, rfl⟩ | ⟨rfl, rfl⟩ | ⟨k, r, rfl, -, rfl⟩ |
    ⟨r, rfl, -, -, -, rfl⟩ | ⟨rfl, -, -, rfl⟩ := exec_cases h
  · exact absurd hok hc
  · have hclrst : i ≠ .clrst := by rintro rfl; cases hrd
    refine ⟨by rw [if_neg hclrst]; rfl, v, rfl, fun rd' hrd' => ?_⟩
    obtain rfl : rd = rd' := Option.some.inj (hrd.symm.trans hrd')
    exact readReg_completeWordToRd_same rd v s
  · exact ⟨rfl, 0, rfl, nofun⟩
  · exact ⟨rfl, 0, rfl, nofun⟩
  · exact ⟨rfl, 0, rfl, nofun⟩
  · obtain ⟨-, heq⟩ | ⟨-, heq⟩ := buildLogExp_cases (operand r s) s
    · rw [heq]
      exact ⟨rfl, 0, rfl, nofun⟩
    · rw [heq] at hok
      cases hok
  · exact ⟨rfl, 0, rfl, nofun⟩

/-! ### Listed codes (R221) -/

theorem raiseUnless_eq_some (holds : Bool) (c d : CC) :
    raiseUnless holds c = some d ↔ holds = false ∧ d = c := by
  cases holds <;> simp [eq_comm]

/-- NOCFG is listed for every command that needs a field. -/
theorem nocfg_listed {i : Instr} {s : State} (h : fieldReady s i = false) :
    .nocfg ∈ listedCodes i := by
  cases i <;> simp_all [fieldReady, needsField, listedCodes]

/-- WIDTH is listed for every command whose family needs an order. -/
theorem width_listed {i : Instr} {s : State} (h : orderReady s i = false) :
    .width ∈ listedCodes i := by
  cases i <;> simp_all [orderReady, familyOrder, listedCodes]

/-- OPERAND is listed for every command whose operands have a range. -/
theorem operand_listed {i : Instr} {s : State} (h : operandsInRange s i = false) :
    .operand ∈ listedCodes i := by
  cases i <;> simp_all [operandsInRange, listedCodes]

/-- TABLE is listed for every command that reads a table. -/
theorem table_listed {i : Instr} {s : State} (h : tablesReady s i = false) :
    .table ∈ listedCodes i := by
  cases i <;> simp_all [tablesReady, listedCodes]

/-- The code that the checks of R224 raise is listed for the command. -/
theorem commandChecks_listed {i : Instr} {s : State} {c : CC}
    (h : firstError (commandChecks i s) = some c) : c ∈ listedCodes i := by
  have hmem := firstError_mem h
  simp only [commandChecks, List.mem_cons, List.not_mem_nil, or_false, eq_comm (a := some c),
    raiseUnless_eq_some] at hmem
  obtain ⟨hf, rfl⟩ | ⟨ho, rfl⟩ | ⟨hr, rfl⟩ | ⟨ht, rfl⟩ := hmem
  exacts [nocfg_listed hf, width_listed ho, operand_listed hr, table_listed ht]

/-- Only INV and DIV, for which it is listed, end with NOT_INVERTIBLE: no check raises it. -/
theorem exec_notInvertible_listed {i : Instr} {s t : State} (h : exec i s = .next t)
    (hcc : t.lastCC = .notInvertible) : .notInvertible ∈ listedCodes i := by
  cases i
  case inv | div => simp [listedCodes]
  case nop | ldi | mov | clrst => cases h; cases hcc
  case rdcsr =>
    simp only [exec, execRdcsr] at h
    split at h <;> cases h <;> cases hcc
  all_goals
    obtain ⟨-, rfl⟩ | ⟨c, hc, rfl⟩ := guarded_cases h
    case' inr =>
      obtain rfl : c = .notInvertible := hcc
      exact absurd hc (by simp)
  case bldlx.inl r =>
    obtain ⟨-, heq⟩ | ⟨-, heq⟩ := buildLogExp_cases (operand r s) s <;>
      exact absurd hcc (by simp [heq])
  all_goals cases hcc

/-- Settles O22: a code that the checks raise is listed (`commandChecks_listed`), and past them a
command ends with OK, BLDLX with NOT_GENERATOR, or INV and DIV with NOT_INVERTIBLE. -/
theorem commandsEndOnlyWithListedCodes : Obligations.CommandsEndOnlyWithListedCodes := by
  intro i s t hi h
  obtain ⟨u, hu, hend⟩ := exec_eq_guarded hi s
  obtain ⟨-, rfl⟩ | ⟨c, hc, rfl⟩ := guarded_cases (hu.symm.trans h)
  · obtain hok | hgen | hinv := hend
    · exact .inl hok
    · obtain ⟨r, rfl⟩ := (exec_error_precise h (by simp [hgen])).2 hgen
      exact .inr (by simp [hgen, listedCodes])
    · exact .inr (hinv ▸ exec_notInvertible_listed h hinv)
  · exact .inr (commandChecks_listed hc)

/-! ### What a command leaves unchanged (R31, R33 to R42) -/

/-- BLDLX past its checks writes no register. -/
theorem readReg_buildLogExp (r : RegIdx) (g : Nat) (s : State) :
    readReg r (buildLogExp g s) = readReg r s := by
  obtain ⟨-, heq⟩ | ⟨-, heq⟩ := buildLogExp_cases g s <;> rw [heq] <;> rfl

/-- Settles O24: only the completion that writes a destination writes a register (`exec_cases`), and
that one ends with OK. -/
theorem registersWrittenOnlyAsListed : Obligations.RegistersWrittenOnlyAsListed := by
  intro i s t r h hkept
  obtain ⟨_, -, -, rfl⟩ | ⟨rd, v, hrd, rfl⟩ | ⟨-, rfl⟩ | ⟨-, rfl⟩ | ⟨_, _, -, -, rfl⟩ |
    ⟨_, -, -, -, -, rfl⟩ | ⟨-, -, -, rfl⟩ := exec_cases h
  case inr.inl =>
    have hne : r ≠ rd := by
      rintro rfl
      exact hkept.elim (fun hcc => hcc rfl) fun hdest => hdest hrd
    exact readReg_completeWordToRd_ne hne v s
  case inr.inr.inr.inr.inr.inl => exact readReg_buildLogExp r _ s
  all_goals rfl

/-- Settles O25: every completion of `exec_cases` keeps the fields it does not name. -/
theorem csrsAndTablesWrittenOnlyByTheirCommands :
    Obligations.CsrsAndTablesWrittenOnlyByTheirCommands := by
  intro i s t h
  obtain ⟨_, -, -, rfl⟩ | ⟨rd, v, hrd, rfl⟩ | ⟨-, rfl⟩ | ⟨-, rfl⟩ | ⟨k, r, rfl, -, rfl⟩ |
    ⟨r, rfl, -, -, -, rfl⟩ | ⟨rfl, -, -, rfl⟩ := exec_cases h
  case inr.inr.inr.inr.inl => simp
  case inr.inr.inr.inr.inr.inl =>
    obtain ⟨-, heq⟩ | ⟨-, heq⟩ := buildLogExp_cases (operand r s) s <;> simp [heq]
  case inr.inr.inr.inr.inr.inr => simp [buildRt]
  all_goals simp [completeWordToRd]

end Sys2Proof.Machine
end

section
/-! PROOF. The host port: what an edge does in each phase, runs of edges, and the sticky bits (R34,
R80 to R82, R251 to R253, R258, R261, R262). -/

namespace Sys2Proof.Machine

/-! ### One edge in each phase (R81, R82, R251) -/

section Edges

variable {s : State}

theorem step_of_rst (hrst : (edgePins s).rst = true) : step s = .next (resetEdge (passEdge s)) := by
  simp [step, clockEdge, hrst]

theorem step_of_idle_offered (hphase : s.phase = .idle) (hrst : (edgePins s).rst = false)
    (hvalid : (edgePins s).cmdValid = true) :
    step s = .next (acceptCommand (edgePins s) (passEdge s)) := by
  simp [step, clockEdge, commandTransfers, cmdReady, hphase, hrst, hvalid]

theorem step_of_idle_quiet (hphase : s.phase = .idle) (hrst : (edgePins s).rst = false)
    (hvalid : (edgePins s).cmdValid = false) : step s = .next (passEdge s) := by
  simp [step, clockEdge, commandTransfers, hphase, hrst, hvalid]

theorem step_of_busy_wait (hphase : s.phase = .busy) (hrst : (edgePins s).rst = false)
    (hleft : s.busyLeft ≠ 0) : step s = .next (waitBusy (passEdge s)) := by
  simp [step, clockEdge, hphase, hrst, hleft]

theorem step_of_respond_taken (hphase : s.phase = .respond) (hrst : (edgePins s).rst = false)
    (hready : (edgePins s).rspReady = true) : step s = .next (takeResponse (passEdge s)) := by
  simp [step, clockEdge, responseTransfers, rspValid, hphase, hrst, hready]

theorem step_of_respond_held (hphase : s.phase = .respond) (hrst : (edgePins s).rst = false)
    (hready : (edgePins s).rspReady = false) : step s = .next (passEdge s) := by
  simp [step, clockEdge, responseTransfers, hphase, hrst, hready]

end Edges

/-- The sampled words run as the command they decode to. -/
theorem runSampled_of_decode_ok {s : State} {i : Instr}
    (hdec : decode s.cmdWord s.cmdData = .ok i) : runSampled s = exec i s := by
  simp [runSampled, hdec]

/-- Settles O6: the completing edge runs the sampled words (`step_of_busy_done`), which
withFetchWord puts in the port with no edge to wait and no sample to come. -/
theorem stepRunsDecodedCommand : Obligations.StepRunsDecodedCommand := by
  refine ⟨fun s i hphase hleft hrst hdec => ?_, fun s nbits w i hdec => ?_⟩
  · exact (step_of_busy_done hphase hleft hrst).trans (runSampled_of_decode_ok hdec)
  · have hok : decode (tableCmd nbits w) (tableData nbits w) = .ok i := by
      unfold decodeTableWord at hdec
      split at hdec
      next hj => rw [hj, Option.some.inj hdec]
      next => cases hdec
    exact (step_of_busy_done (s := s.withFetchWord nbits w) rfl rfl rfl).trans
      (runSampled_of_decode_ok hok)

/-- Settles O8: the outputs are gated by rst, and the edge leaves `resetEdge`'s values. -/
theorem resetEdgeAbandonsTheCommand : Obligations.ResetEdgeAbandonsTheCommand := by
  intro s hrst
  refine ⟨by simp [outputs, cmdReady, hrst], by simp [outputs, rspValid, hrst],
    resetEdge (passEdge s), step_of_rst hrst, readReg_reset, rfl, rfl, rfl, rfl, rfl, rfl, rfl, rfl,
    rfl, rfl⟩

/-- Settles O9: with the command offered or not, in IDLE. -/
theorem commandTransferSamplesTheWords : Obligations.CommandTransferSamplesTheWords := by
  intro s hphase hrst
  exact ⟨fun hvalid => ⟨_, step_of_idle_offered hphase hrst hvalid⟩,
    fun hvalid => step_of_idle_quiet hphase hrst hvalid⟩

/-- Settles O13: the edge takes the response. -/
theorem responseTransferReturnsToIdle : Obligations.ResponseTransferReturnsToIdle :=
  fun _ hphase hrst hready => step_of_respond_taken hphase hrst hready

/-- Settles O14: the two handshake outputs by the phase and rst, and the response they gate. -/
theorem outputsFollowThePhase : Obligations.OutputsFollowThePhase := by
  intro p s
  refine ⟨by simp [outputs, cmdReady], by simp [outputs, rspValid], fun hvalid c v hpending => ?_⟩
  have hrsp : rspValid p s = true := hvalid
  simp [outputs, hrsp, hpending]

/-! ### Runs of edges -/

/-- Sampled words answer a response, and accept no further command. -/
theorem runSampled_responds (s : State) : ∃ t, runSampled s = .next t ∧ t.phase = .respond ∧
    t.pending.isSome = true ∧ t.accepted = s.accepted := by
  unfold runSampled
  split
  next i _ =>
    obtain ⟨t, ht⟩ := exec_next i s
    obtain ⟨v, hv⟩ := exec_pending ht
    obtain ⟨-, -, -, -, -, -, -, -, haccepted, -⟩ :=
      csrsAndTablesWrittenOnlyByTheirCommands i s t ht
    exact ⟨t, ht, exec_phase ht, by simp [hv], haccepted⟩
  next => exact ⟨_, rfl, rfl, rfl, rfl⟩

/-- Settles O10, by induction on the edges to wait: each of them is a `waitBusy`, and the last edge
runs the sampled words. -/
theorem busyCompletesAfterItsLatency : Obligations.BusyCompletesAfterItsLatency := by
  intro n
  induction n with
  | zero =>
    intro s hphase hleft hreset
    have hrst : (edgePins s).rst = false := edgePins_of_take quiet_rst hreset
    have hstate : passEdge s = { s with busyLeft := 0, inputs := s.inputs.drop 1 } := by
      rw [← hleft, List.drop_one]
      rfl
    obtain ⟨t, ht, -⟩ := runSampled_responds (passEdge s)
    have hrun := run_succ_of_next (n := 0) ((step_of_busy_done hphase hleft hrst).trans ht)
    exact hrun.trans (hstate ▸ ht.symm)
  | succ n ih =>
    intro s hphase hleft hreset
    have hrst : (edgePins s).rst = false := edgePins_of_take quiet_rst hreset
    have hwait := step_of_busy_wait hphase hrst (by omega)
    rw [run_succ_of_next hwait, ih (waitBusy (passEdge s)) hphase (by simp [hleft])
      (passEdge_of_take hreset)]
    simp only [waitBusy, passEdge, List.drop_tail]
    rfl

/-- Settles O12, by induction on the edges: each of them holds the response. -/
theorem waitingResponseIsHeld : Obligations.WaitingResponseIsHeld := by
  intro n s hphase hquiet
  refine ⟨fun p => by simp [cmdReady, hphase], ?_⟩
  induction n generalizing s with
  | zero => rfl
  | succ n ih =>
    obtain ⟨hrst, hready⟩ := edgePins_of_take ⟨rfl, rfl⟩ hquiet
    rw [run_succ_of_next (step_of_respond_held hphase hrst hready),
      ih (passEdge s) hphase (passEdge_of_take hquiet)]
    simp [passEdge]

/-- Settles O11: the transfer leaves the block in BUSY with its latency to wait, after which the
sampled words answer. -/
theorem acceptedCommandGetsItsResponse : Obligations.AcceptedCommandGetsItsResponse := by
  intro s hphase hvalid hreset
  have hrst : (edgePins s).rst = false :=
    edgePins_of_take (n := 0) (P := fun p => p.rst = false) quiet_rst fun p hp =>
      hreset p (List.mem_of_mem_take hp)
  have hstep := step_of_idle_offered hphase hrst hvalid
  let u := acceptCommand (edgePins s) (passEdge s)
  have hrun := busyCompletesAfterItsLatency u.busyLeft u rfl rfl fun p hp =>
    hreset p (List.mem_of_mem_tail (List.mem_of_mem_take hp))
  obtain ⟨t, ht, hrespond, hpending, haccepted⟩ :=
    runSampled_responds { u with busyLeft := 0, inputs := u.inputs.drop (u.busyLeft + 1) }
  exact ⟨u.busyLeft + 1 + 1, t, (run_succ_of_next hstep).trans (hrun.trans ht), hrespond, hpending,
    haccepted⟩

/-! ### Sticky bits (R34) -/

/-- Only CLRST clears ERR. -/
theorem exec_err_cleared {i : Instr} {s t : State} (h : exec i s = .next t) (hs : s.err = true)
    (ht : t.err = false) : i = .clrst := by
  by_contra hi
  by_cases hok : t.lastCC = .ok
  · have herr := (okCompletionsAnswerTheirResult i s t h hok).1
    rw [if_neg hi, hs, ht] at herr
    cases herr
  · have herr : t.err = true := by
      rw [(exec_error_precise h hok).1]
      rfl
    rw [ht] at herr
    cases herr

/-- No command clears CFG_VALID. -/
theorem exec_cfgValid {i : Instr} {s t : State} (h : exec i s = .next t) (hs : s.cfgValid = true) :
    t.cfgValid = true := by
  by_cases hi : ∃ k r, i = .cfg k r
  · obtain ⟨k, r, rfl⟩ := hi
    obtain ⟨-, rfl⟩ | ⟨c, -, rfl⟩ := guarded_cases h
    · rfl
    · exact hs
  · obtain ⟨hcfg, -⟩ := csrsAndTablesWrittenOnlyByTheirCommands i s t h
    have := (hcfg fun k r hkr => hi ⟨k, r, hkr⟩).2.2
    rw [this, hs]

/-- Settles O26: only the completing edge writes the bits (`step_completes_or_keeps`), and there a
command clears ERR only if it is CLRST, and never CFG_VALID. -/
theorem stickyBitsClearedOnlyAsStated : Obligations.StickyBitsClearedOnlyAsStated := by
  intro s t hrst h
  obtain ⟨⟨hphase, -⟩, hrun⟩ | ⟨-, hkeep⟩ := step_completes_or_keeps hrst h
  · obtain ⟨-, rfl⟩ | ⟨i, hdec, hexec⟩ := runSampled_cases hrun
    · exact ⟨fun _ ht => Bool.noConfusion ht, fun hs => hs⟩
    · refine ⟨fun hs ht => ⟨hphase, ?_⟩, fun hs => exec_cfgValid hexec hs⟩
      obtain rfl := exec_err_cleared hexec hs ht
      exact hdec
  · obtain ⟨-, -, -, -, -, herr, hcfg, -⟩ := (withoutPort_eq_iff s t).1 hkeep
    refine ⟨fun hs ht => ?_, fun hs => hcfg.trans hs⟩
    rw [herr, hs] at ht
    cases ht

end Sys2Proof.Machine
end

section
/-! PROOF. The control commands, what CFG leaves of the tables, and ADD (R110 to R115, R131, R255 to
R257). -/

namespace Sys2Proof.Machine

/-! ### Control commands (R110 to R115) -/

/-- Settles O27: NOP and CLRST check nothing. -/
theorem nopAndClrstResults : Obligations.NopAndClrstResults := fun _ => ⟨rfl, rfl⟩

/-- Settles O28: LDI and MOV check nothing. -/
theorem registerMoves : Obligations.RegisterMoves := fun _ _ _ _ => ⟨rfl, rfl⟩

/-- RDCSR of a CSR that exists answers it. -/
theorem rdcsr_of_readCsr {csr : CsrIdx} {s : State} {v : Word} (rd : RegIdx)
    (h : readCsr csr s = some v) : exec (.rdcsr rd csr) s = .next (okToRd rd v s) := by
  simp only [exec, execRdcsr, h]
  rfl

/-- The numbers 9..15 are no CSRs (R33). -/
theorem readCsr_of_reserved {csr : CsrIdx} (h : 9 ≤ csr) (s : State) : readCsr csr s = none := by
  have hlisted : csr = 9 ∨ csr = 10 ∨ csr = 11 ∨ csr = 12 ∨ csr = 13 ∨ csr = 14 ∨ csr = 15 := by
    bv_omega
  rcases hlisted with rfl | rfl | rfl | rfl | rfl | rfl | rfl <;> rfl

/-- STATUS as the sum of its fields' weights (R34). -/
theorem statusWord_eq_ofNat (s : State) :
    statusWord s = BitVec.ofNat 64 ((ccCode s.lastCC).toNat + 16 * s.err.toNat +
      256 * s.cfgValid.toNat + 512 * s.lxValid.toNat + 1024 * s.rtValid.toNat) := by
  unfold statusWord
  generalize s.err = err, s.cfgValid = cfg, s.lxValid = lx, s.rtValid = rt
  cases s.lastCC <;> revert err cfg lx rt <;> decide

/-- Settles O29: each number from 0 to 8 reads its CSR, the others none. -/
theorem rdcsrReadsTheCsrs : Obligations.RdcsrReadsTheCsrs := by
  intro rd s k status reads
  have hread : ∀ {csr v}, readCsr csr s = some (BitVec.ofNat 64 v) → reads csr v :=
    rdcsr_of_readCsr rd
  refine ⟨hread (congrArg some (statusWord_eq_ofNat s)), hread ?_, hread rfl, hread ?_, hread rfl,
    hread rfl, hread rfl, hread rfl, hread ?_, fun csr hcsr => ?_⟩
  · simp [readCsr, fieldWord]
  · simp [readCsr, polyNat]
  · simp [readCsr]
  · simp only [exec, execRdcsr, readCsr_of_reserved hcsr]
    rfl

/-- Settles O30: CFG has one check, of its polynomial's range. -/
theorem cfgConstructsTheField : Obligations.CfgConstructsTheField := by
  intro ksel rs1 s
  refine ⟨fun h => (guarded_of_pass _ _ (by simpa using h)).trans ?_,
    fun h => guarded_of_error _ _ (by simpa using h)⟩
  have hpoly : BitVec.ofNat 32 (operand rs1 s) = (readReg rs1 s).setWidth 32 :=
    BitVec.ofNat_toNat _ _
  rw [configureField, hpoly]
  rfl

/-- After an OK completion of CFG, no table is valid. -/
theorem cfg_ok {ksel : KSel} {r : RegIdx} {s t : State} (h : exec (.cfg ksel r) s = .next t)
    (hok : t.lastCC = .ok) : t.lxValid = false ∧ t.rtValid = false := by
  obtain ⟨-, rfl⟩ | ⟨c, hc, rfl⟩ := guarded_cases h
  · exact ⟨rfl, rfl⟩
  · exact absurd hok (firstError_ne_ok (by simp) hc)

/-- Settles O31: with no table valid, the checks of a command that reads one raise an error
(`exec_eq_guarded`), TABLE if none before it. -/
theorem cfgInvalidatesTheTables : Obligations.CfgInvalidatesTheTables := by
  intro ksel r s t i h hok hready
  obtain ⟨hlx, hrt⟩ := cfg_ok h hok
  have htables : tablesReady t i = false := by
    cases i <;> simp_all [tablesReady]
  have hi : i.wellFormed = true := by
    cases i <;> simp_all [tablesReady, Instr.wellFormed]
  obtain ⟨u, hexec, -⟩ := exec_eq_guarded hi t
  obtain ⟨c, hc⟩ : ∃ c, firstError (commandChecks i t) = some c := by
    rw [← Option.ne_none_iff_exists']
    simp [commandChecks, htables]
  refine ⟨c, firstError_ne_ok ?_ hc, hexec.trans (guarded_of_error _ _ hc)⟩
  simp [commandChecks, raiseUnless_eq_some]

/-! ### ADD (R131) -/

/-- Settles O32: with its checks passed, ADD completes with the sum. -/
theorem addIsXor : Obligations.AddIsXor := by
  intro rd rs1 rs2 s hcfg h1 h2
  refine (guarded_of_pass _ _ (by simp [hcfg, h1, h2])).trans ?_
  rw [completeToRd, operand, operand, ← BitVec.toNat_xor, BitVec.ofNat_toNat, BitVec.setWidth_eq]
  rfl

end Sys2Proof.Machine
end

section
/-! PROOF. The commands that build RT, LOG and EXP, and those that read them entry by entry (R163 to
R168, R194 to R198). -/

namespace Sys2Proof.Machine

/-! ### Builds (R163, R194) -/

/-- Settles O41: the generator check decides (`generatorCheck_iff_isGenerator`). -/
theorem bldlxBuildsOrInvalidates : Obligations.BldlxBuildsOrInvalidates := by
  intro rs1 s hcfg hk hg
  have hexec : exec (.bldlx rs1) s = .next (buildLogExp (operand rs1 s) s) :=
    guarded_of_pass _ _ (by simp [hcfg, hk, hg])
  have hgen : BitVec.ofNat 8 (operand rs1 s) = (readReg rs1 s).setWidth 8 := BitVec.ofNat_toNat _ _
  rw [← generatorCheck_iff_isGenerator, hexec, Bool.not_eq_true]
  refine ⟨fun hcheck => ?_, fun hcheck => ?_⟩
  · simp only [buildLogExp, hcheck, if_true, hgen]
    rfl
  · simp only [buildLogExp, hcheck]
    rfl

/-- Settles O53: BLDRT's checks pass. -/
theorem bldrtBuildsTheTable : Obligations.BldrtBuildsTheTable :=
  fun _ hcfg hk => guarded_of_pass _ _ (by simp [hcfg, hk])

/-! ### Entries -/

theorem readLog_of_getElem? {s : State} {a : Nat} {e : BitVec 9} (h : s.log[a]? = some e) :
    readLog (BitVec.ofNat 8 a) s = e := by
  obtain ⟨ha, rfl⟩ := Vector.getElem?_eq_some_iff.1 h
  simp [readLog, Nat.mod_eq_of_lt ha]

theorem readRt_of_getElem? {s : State} {a : Nat} {e : BitVec 16} (h : s.rt[a]? = some e) :
    readRt (BitVec.ofNat 8 a) s = e := by
  obtain ⟨ha, rfl⟩ := Vector.getElem?_eq_some_iff.1 h
  simp [readRt, Nat.mod_eq_of_lt ha]

/-- The EXP entry at an index that is one. -/
theorem expAt_of_getElem? {s : State} {idx : Int} {j : Nat} {e : BitVec 8} (hidx : idx = j)
    (h : s.exp[j]? = some e) : expAt s idx = e.toNat := by
  obtain ⟨hj, rfl⟩ := Vector.getElem?_eq_some_iff.1 h
  subst hidx
  simp [expAt, readExp, Nat.mod_eq_of_lt hj]

/-- A table's index with an entry is below its size. -/
theorem lt_of_getElem?_eq_some {α : Type} {n a : Nat} {xs : Vector α n} {e : α}
    (h : xs[a]? = some e) : a < n := (Vector.getElem?_eq_some_iff.1 h).1

/-- A result as a number is the same word, zero-extended. -/
theorem completeToRd_toNat {w : Nat} (rd : RegIdx) (v : BitVec w) (s : State) :
    completeToRd rd v.toNat s = okToRd rd (v.setWidth 64) s := by
  rw [completeToRd, BitVec.ofNat_toNat]
  rfl

/-! ### LOG and EXP (R164 to R168) -/

/-- The shape of the commands that answer an EXP entry: past their checks, the one at their
index. -/
theorem guarded_expAt {s : State} {checks : List (Option CC)} {idx : Int} {j : Nat} (rd : RegIdx)
    (hpass : firstError checks = none) (hidx : (j : Int) = idx) (hj : j < 1024) :
    guarded checks s (completeToRd rd (expAt s idx) s) =
      .next (okToRd rd (s.exp[j].setWidth 64) s) := by
  rw [guarded_of_pass _ _ hpass, expAt_of_getElem? hidx.symm (Vector.getElem?_eq_getElem hj),
    completeToRd_toNat]

/-- Settles O44: the entry is read at the operand. -/
theorem logrdAndExprdReadTheTables : Obligations.LogrdAndExprdReadTheTables := by
  intro rd rs1 s hcfg hk hlx
  refine ⟨fun e he => ?_, fun e he => ?_⟩ <;> have hop := lt_of_getElem?_eq_some he
  · refine (guarded_of_pass _ _ (by simp [hcfg, hk, hlx, hop])).trans ?_
    rw [readLog_of_getElem? he]
    rfl
  · refine (guarded_of_pass _ _ (by simp [hcfg, hk, hlx, hop])).trans ?_
    rw [expAt_of_getElem? rfl he, completeToRd_toNat]

/-- A LOG entry as a signed number (R41). -/
theorem log_entry_range (e : BitVec 9) : -256 ≤ e.toInt ∧ e.toInt < 256 :=
  ⟨BitVec.le_toInt e, BitVec.toInt_lt⟩

/-- Settles O45: the sum of two signed 9-bit logs, biased, is an index of EXP. -/
theorem mulxReadsExpAtSumOfLogs : Obligations.MulxReadsExpAtSumOfLogs := by
  intro rd rs1 rs2 s la lb hcfg hk hlx ha hb
  have := log_entry_range la
  have := log_entry_range lb
  obtain ⟨j, hj⟩ : ∃ j : Nat, (j : Int) = 512 + la.toInt + lb.toInt :=
    ⟨(512 + la.toInt + lb.toInt).toNat, by omega⟩
  have hidx : (j : Int) = mulxIndex s (operand rs1 s) (operand rs2 s) := by
    rw [hj, mulxIndex, logOf_of_getElem? ha, logOf_of_getElem? hb, bias]
  have ha' := lt_of_getElem?_eq_some ha
  have hb' := lt_of_getElem?_eq_some hb
  have hlt : j < 1024 := by omega
  exact ⟨j, _, hj, Vector.getElem?_eq_getElem hlt,
    guarded_expAt rd (by simp [hcfg, hk, hlx, ha', hb']) hidx hlt⟩

/-- Settles O46: the signed 9-bit log taken from BIAS + 255 leaves an index of EXP. -/
theorem invxReadsExpAtNegatedLog : Obligations.InvxReadsExpAtNegatedLog := by
  intro rd rs1 s la hcfg hk hlx ha
  have := log_entry_range la
  obtain ⟨j, hj⟩ : ∃ j : Nat, (j : Int) = 512 + 255 - la.toInt :=
    ⟨(512 + 255 - la.toInt).toNat, by omega⟩
  have hidx : (j : Int) = invxIndex s (operand rs1 s) := by
    rw [hj, invxIndex, logOf_of_getElem? ha, bias]
  have ha' := lt_of_getElem?_eq_some ha
  have hlt : j < 1024 := by omega
  exact ⟨j, _, hj, Vector.getElem?_eq_getElem hlt,
    guarded_expAt rd (by simp [hcfg, hk, hlx, ha']) hidx hlt⟩

/-- A truncated remainder is 0 or has the dividend's sign (R14). -/
theorem tmod_nonpos_of_nonpos {x : Int} (hx : x ≤ 0) (d : Int) : Int.tmod x d ≤ 0 := by
  have h := Int.tmod_nonneg d (Int.neg_nonneg_of_nonpos hx)
  rw [Int.neg_tmod] at h
  omega

/-- Settles O47: m is the truncated remainder of R14 by 255. -/
theorem powxReadsExpAtScaledLog : Obligations.PowxReadsExpAtScaledLog := by
  intro rd rs1 rs2 s la hcfg hk hlx ha hb
  have hlo := Int.lt_tmod_of_pos (la.toInt * (operand rs2 s : Int)) (b := 255) (by omega)
  have hhi := Int.tmod_lt_of_pos (la.toInt * (operand rs2 s : Int)) (b := 255) (by omega)
  obtain ⟨j, hj⟩ : ∃ j : Nat, (j : Int) = 512 + Int.tmod (la.toInt * operand rs2 s) 255 :=
    ⟨(512 + Int.tmod (la.toInt * operand rs2 s) 255).toNat, by omega⟩
  have hidx : (j : Int) = powxIndex s (operand rs1 s) (operand rs2 s) := by
    rw [hj, powxIndex, logOf_of_getElem? ha, bias]
  have ha' := lt_of_getElem?_eq_some ha
  have hlt : j < 1024 := by omega
  refine ⟨j, _, Int.tdiv (la.toInt * operand rs2 s) 255, _, hj,
    (Int.mul_tdiv_add_tmod _ _).symm, by omega, fun h => ?_, fun h => ?_,
    Vector.getElem?_eq_getElem hlt, guarded_expAt rd (by simp [hcfg, hk, hlx, ha', hb]) hidx hlt⟩
  · exact Int.tmod_nonneg _ (Int.mul_nonneg h (Int.natCast_nonneg _))
  · exact tmod_nonpos_of_nonpos (Int.mul_nonpos_of_nonpos_of_nonneg h (Int.natCast_nonneg _)) _

/-! ### RT (R195, R196, R198) -/

/-- MSL8's shift as arithmetic on the two bytes, with the entry RT holds for the high one (R192). -/
theorem shiftReduce8_of_getElem? {s : State} {r : Nat} {e : BitVec 16}
    (h : s.rt[r / 256]? = some e) : shiftReduce8 s r = r % 256 * 256 ^^^ e.toNat := by
  have hlow : (r <<< 8) &&& 0xFFFF = r % 256 * 256 := by
    rw [Nat.and_two_pow_sub_one_eq_mod _ 16, Nat.shiftLeft_eq]
    omega
  rw [shiftReduce8, hlow, Nat.shiftRight_eq_div_pow, readRt_of_getElem? h]

/-- Settles O55: the entry is read at the operand, or at its high byte. -/
theorem rtrdAndMsl8ReadTheTable : Obligations.RtrdAndMsl8ReadTheTable := by
  intro rd rs1 s e hcfg hk hrt
  refine ⟨fun he => ?_, fun he => ?_⟩ <;> have hop := lt_of_getElem?_eq_some he
  · refine (guarded_of_pass _ _ (by simp [hcfg, hk, hrt, hop])).trans ?_
    rw [readRt_of_getElem? he, completeToRd_toNat]
  · have hop' : operand rs1 s < 2 ^ 16 := by omega
    refine (guarded_of_pass _ _ (by simpa [hcfg, hk, hrt] using hop')).trans ?_
    rw [shiftReduce8_of_getElem? he]
    rfl

/-- R198's loop unrolled, its bytes as quotients. -/
theorem reduceBytewise_eq (s : State) (x : Nat) :
    reduceBytewise s x =
      shiftReduce8 s (shiftReduce8 s (shiftReduce8 s (shiftReduce8 s 0 ^^^ x / 16777216 % 256) ^^^
        x / 65536 % 256) ^^^ x / 256 % 256) ^^^ x % 256 := by
  simp [reduceBytewise, reduceBytewiseLoop, bitsOf, Nat.shiftRight_eq_div_pow]

/-- Settles O56: the top byte of an operand below 2^32 is its quotient by 2^24. -/
theorem modrbFoldsFourBytes : Obligations.ModrbFoldsFourBytes := by
  intro rd rs1 s hcfg hk hrt hop
  refine ⟨_, _, _, rfl, rfl, rfl, (guarded_of_pass _ _ (by simp [hcfg, hk, hrt, hop])).trans ?_⟩
  rw [reduceBytewise_eq, Nat.mod_eq_of_lt (a := operand rs1 s / 16777216) (by omega)]
  rfl

end Sys2Proof.Machine
end

section
/-! PROOF. Numbers as polynomials over GF(2), and MUL as multiplication in GF(2)[x] modulo FULL_POLY
(R13, R132). -/

namespace Sys2Proof.Machine

open Polynomial

/-! ### Numbers as polynomials (R13) -/

/-- The polynomial over GF(2) with bit i of n as its coefficient of x^i (R13). -/
noncomputable def toPoly (n : Nat) : (ZMod 2)[X] :=
  ∑ i ∈ Finset.range (n.log2 + 1), if n.testBit i then X ^ i else 0

theorem coeff_toPoly (n i : Nat) : (toPoly n).coeff i = if n.testBit i then 1 else 0 := by
  have hterm : ∀ j, (if n.testBit j then (X ^ j : (ZMod 2)[X]) else 0).coeff i =
      if i = j then (if n.testBit i then 1 else 0) else 0 := by
    intro j
    split_ifs <;> simp_all [coeff_X_pow]
  simp only [toPoly, finsetSum_coeff, hterm, Finset.sum_ite_eq, Finset.mem_range]
  split
  · rfl
  next hi =>
    have hlt : n < 2 ^ i := Nat.lt_log2_self.trans_le (Nat.pow_le_pow_right Nat.two_pos (by omega))
    simp [Nat.testBit_lt_two_pow hlt]

/-- XOR is the sum of polynomials. -/
theorem toPoly_xor (a b : Nat) : toPoly (a ^^^ b) = toPoly a + toPoly b := by
  ext i
  have htwo : (1 : ZMod 2) + 1 = 0 := by decide
  rw [coeff_add, coeff_toPoly, coeff_toPoly, coeff_toPoly, Nat.testBit_xor]
  cases a.testBit i <;> cases b.testBit i <;> simp [htwo]

/-- A shift by n is the product with x^n. -/
theorem toPoly_shiftLeft (a n : Nat) : toPoly (a <<< n) = toPoly a * X ^ n := by
  ext i
  rw [coeff_mul_X_pow', coeff_toPoly, coeff_toPoly, Nat.testBit_shiftLeft]
  by_cases h : n ≤ i <;> simp [h]

@[simp] theorem toPoly_zero : toPoly 0 = 0 := by
  ext i
  simp [coeff_toPoly]

@[simp] theorem toPoly_one : toPoly 1 = 1 := by
  have hlog : Nat.log2 1 = 0 := rfl
  simp [toPoly, hlog]

theorem toPoly_two_pow (n : Nat) : toPoly (2 ^ n) = X ^ n := by
  rw [← Nat.one_shiftLeft, toPoly_shiftLeft, toPoly_one, one_mul]

/-- Different numbers are different polynomials. -/
theorem toPoly_injective : Function.Injective toPoly := by
  intro a b h
  refine Nat.eq_of_testBit_eq fun i => ?_
  have hi := congrArg (fun p => p.coeff i) h
  simp only [coeff_toPoly] at hi
  cases ha : a.testBit i <;> cases hb : b.testBit i <;> simp_all

/-- A number below 2^n is a polynomial of degree below n. -/
theorem degree_toPoly_lt {a n : Nat} (h : a < 2 ^ n) : (toPoly a).degree < n := by
  rw [degree_lt_iff_coeff_zero]
  intro i hi
  rw [coeff_toPoly, Nat.testBit_lt_two_pow (h.trans_le (Nat.pow_le_pow_right Nat.two_pos hi))]
  rfl

/-- clmul is the product of polynomials. -/
theorem toPoly_clmul (a b : Nat) : toPoly (clmul a b) = toPoly a * toPoly b := by
  have hbelow : ∀ n, toPoly (clmulBelow n a b) =
      toPoly a * ∑ i ∈ Finset.range n, if b.testBit i then X ^ i else 0 := by
    intro n
    induction n with
    | zero => simp
    | succ n ih =>
      rw [clmulBelow_succ, Finset.sum_range_succ, mul_add, ← ih]
      split
      · rw [toPoly_xor, toPoly_shiftLeft]
      · rw [mul_zero, add_zero]
  exact hbelow (b.log2 + 1)

theorem clmul_comm (a b : Nat) : clmul a b = clmul b a :=
  toPoly_injective (by rw [toPoly_clmul, toPoly_clmul, mul_comm])

theorem clmul_xor_right (a b c : Nat) : clmul a (b ^^^ c) = clmul a b ^^^ clmul a c := by
  rw [clmul_comm, clmul_xor_left, clmul_comm b, clmul_comm c]

theorem clmul_shiftLeft_right (a b n : Nat) : clmul a (b <<< n) = clmul a b <<< n :=
  toPoly_injective (by simp only [toPoly_clmul, toPoly_shiftLeft, mul_assoc])

@[simp] theorem clmul_one_right (a : Nat) : clmul a 1 = a :=
  toPoly_injective (by rw [toPoly_clmul, toPoly_one, mul_one])

/-- The product's degree is below the sum of its factors' widths. -/
theorem clmulBelow_lt {m n a : Nat} (b : Nat) (ha : a < 2 ^ m) (hn : 0 < n) :
    clmulBelow n a b < 2 ^ (m + n - 1) := by
  induction n, hn using Nat.le_induction with
  | base =>
    rw [clmulBelow_succ]
    split
    · simpa using ha
    · exact Nat.two_pow_pos _
  | succ n hn ih =>
    rw [clmulBelow_succ]
    have hold : clmulBelow n a b < 2 ^ (m + (n + 1) - 1) :=
      ih.trans_le (Nat.pow_le_pow_right Nat.two_pos (by omega))
    split
    · refine Nat.xor_lt_two_pow hold ?_
      rw [Nat.shiftLeft_eq, Nat.add_succ_sub_one, Nat.pow_add]
      exact Nat.mul_lt_mul_of_pos_right ha (Nat.two_pow_pos n)
    · exact hold

theorem clmul_lt {m n a b : Nat} (hn : 0 < n) (ha : a < 2 ^ m) (hb : b < 2 ^ n) :
    clmul a b < 2 ^ (m + n - 1) := by
  rw [← clmulBits_eq_clmul a hn hb, clmulBits_eq_clmulBelow]
  exact clmulBelow_lt b ha hn

/-! ### MUL is the reduced carry-less product (R132) -/

section Field

variable {k poly : Nat} (hp : poly < 2 ^ k)
include hp

/-- A reduced factor x^n may be multiplied in before or after the reduction. -/
theorem gfReduce_gfReduce_shiftLeft (x n : Nat) :
    gfReduce k poly (gfReduce k poly x <<< n) = gfReduce k poly (x <<< n) := by
  induction x using reduce_induction hp with
  | low x hx => rw [gfReduce_of_lt hx]
  | turn x m hx ih =>
    rwa [gfReduce_xor_of_deg_eq hp hx, Nat.shiftLeft_xor_distrib, ← Nat.shiftLeft_add,
      gfReduce_xor_fullPolyOf_shiftLeft hp] at ih

variable (hk : 0 < k)
include hk

/-- R132's running power is doubled modulo FULL_POLY. -/
theorem gfDouble_eq_gfReduce {p : Nat} (hlt : p < 2 ^ k) :
    gfDouble k poly p = gfReduce k poly (p <<< 1) := by
  have hdouble := gfDouble_lt poly hk hlt
  unfold gfDouble at hdouble ⊢
  split
  next hhigh =>
    have hbit : p.testBit (k - 1) = true := by
      simpa [highBitOf, Nat.and_two_pow] using hhigh
    have htop : ((p <<< 1) ^^^ poly).testBit k = true := by
      rw [Nat.testBit_xor, Nat.testBit_shiftLeft, Nat.testBit_lt_two_pow hp]
      simpa [hbit] using Nat.one_le_of_lt hk
    have hwide : (p <<< 1) ^^^ poly < 2 ^ (k + 1) := by
      refine Nat.xor_lt_two_pow ?_ (hp.trans (Nat.pow_lt_pow_succ Nat.one_lt_two))
      rw [Nat.shiftLeft_eq, Nat.pow_succ]
      omega
    have hsplit := mod_two_pow_succ_eq_xor ((p <<< 1) ^^^ poly) k
    rw [Nat.mod_eq_of_lt hwide, htop, if_pos rfl] at hsplit
    rw [fieldMaskOf, Nat.and_two_pow_sub_one_eq_mod]
    have hmod : ((p <<< 1) ^^^ poly) % 2 ^ k = (p <<< 1) ^^^ (fullPolyOf k poly <<< 0) := by
      rw [Nat.shiftLeft_zero, fullPolyOf_eq_xor hp, ← Nat.xor_assoc]
      calc ((p <<< 1) ^^^ poly) % 2 ^ k
        _ = ((p <<< 1) ^^^ poly) % 2 ^ k ^^^ 2 ^ k ^^^ 2 ^ k :=
          (Nat.xor_xor_cancel_right _ _).symm
        _ = (p <<< 1) ^^^ poly ^^^ 2 ^ k := by rw [← hsplit]
    rw [← gfReduce_xor_fullPolyOf_shiftLeft hp _ 0, ← hmod,
      gfReduce_of_lt (Nat.mod_lt _ (Nat.two_pow_pos k))]
  next hlow =>
    rw [if_neg hlow] at hdouble
    exact (gfReduce_of_lt hdouble).symm

/-- From turn i on, n turns of R132's loop. -/
theorem gfMulLoop_eq_gfReduce (a b n i : Nat) :
    gfMulLoop k poly b n i (gfReduce k poly (a <<< i)) (gfReduce k poly (clmulBelow i a b)) =
      gfReduce k poly (clmulBelow (i + n) a b) := by
  induction n generalizing i with
  | zero => rfl
  | succ n ih =>
    have hpower : gfDouble k poly (gfReduce k poly (a <<< i)) =
        gfReduce k poly (a <<< (i + 1)) := by
      rw [gfDouble_eq_gfReduce hp hk (gfReduce_lt hp _), gfReduce_gfReduce_shiftLeft hp,
        ← Nat.shiftLeft_add]
    have hsum : (if b.testBit i then
          gfReduce k poly (clmulBelow i a b) ^^^ gfReduce k poly (a <<< i)
        else gfReduce k poly (clmulBelow i a b)) = gfReduce k poly (clmulBelow (i + 1) a b) := by
      rw [clmulBelow_succ]
      split
      · rw [gfReduce_xor hp]
      · rfl
    rw [gfMulLoop, hpower, hsum, ih, Nat.succ_add_eq_add_succ]

/-- MUL is MODR of the carry-less product. -/
theorem gfMul_eq_gfReduce_clmul {a b : Nat} (ha : a < 2 ^ k) (hb : b < 2 ^ k) :
    gfMul k poly a b = gfReduce k poly (clmul a b) := by
  have hloop := gfMulLoop_eq_gfReduce hp hk a b k 0
  rw [Nat.shiftLeft_zero, gfReduce_of_lt ha, clmulBelow_zero, gfReduce_of_lt (Nat.two_pow_pos k),
    Nat.zero_add, ← clmulBits_eq_clmulBelow, clmulBits_eq_clmul a hk hb] at hloop
  exact hloop

end Field

end Sys2Proof.Machine
end

section
/-! PROOF. MUL, MULL and MODR against the polynomials of R13, and the identities of MUL (R132 to
R134, R138). -/

namespace Sys2Proof.Machine

/-! ### The configured field's widths (R7, R8) -/

theorem kselOrder_pos (k : KSel) : 0 < kselOrder k := by cases k <;> decide

theorem order_pos (s : State) : 0 < order s := kselOrder_pos s.ksel

/-- The double width holds two elements. -/
theorem two_mul_order_le_doubleWidth (s : State) : 2 * order s ≤ doubleWidthOf s.ksel := by
  unfold order
  cases s.ksel <;> decide

/-- The double width fits a register. -/
theorem doubleWidthOf_le (k : KSel) : doubleWidthOf k ≤ 64 := by cases k <;> decide

/-! ### Identities of MUL (R138) -/

section Field

variable {k poly : Nat} (hp : poly < 2 ^ k) (hk : 0 < k)
include hp hk

theorem gfMul_comm {a b : Nat} (ha : a < 2 ^ k) (hb : b < 2 ^ k) :
    gfMul k poly a b = gfMul k poly b a := by
  rw [gfMul_eq_gfReduce_clmul hp hk ha hb, gfMul_eq_gfReduce_clmul hp hk hb ha, clmul_comm]

theorem gfMul_one_right {a : Nat} (ha : a < 2 ^ k) : gfMul k poly a 1 = a := by
  rw [gfMul_eq_gfReduce_clmul hp hk ha (Nat.one_lt_two_pow hk.ne'), clmul_one_right,
    gfReduce_of_lt ha]

theorem gfMul_zero_right {a : Nat} (ha : a < 2 ^ k) : gfMul k poly a 0 = 0 := by
  rw [gfMul_comm hp hk ha (Nat.two_pow_pos k), gfMul_zero_left]

theorem gfMul_xor_left {a b c : Nat} (ha : a < 2 ^ k) (hb : b < 2 ^ k) (hc : c < 2 ^ k) :
    gfMul k poly (a ^^^ b) c = gfMul k poly a c ^^^ gfMul k poly b c := by
  rw [gfMul_eq_gfReduce_clmul hp hk (Nat.xor_lt_two_pow ha hb) hc,
    gfMul_eq_gfReduce_clmul hp hk ha hc, gfMul_eq_gfReduce_clmul hp hk hb hc, clmul_xor_left,
    gfReduce_xor hp]

end Field

/-- Settles O40: the identities of clmul, carried through the reduction. -/
theorem mulLaws : Obligations.MulLaws := by
  intro ksel poly a b c k hp ha hb hc
  have hk : 0 < k := kselOrder_pos ksel
  exact ⟨gfMul_one_right hp hk ha, gfMul_zero_right hp hk ha, gfMul_comm hp hk ha hb,
    gfMul_xor_left hp hk ha hb hc⟩

/-! ### The commands (R132 to R134, R138) -/

/-- The shape of the commands with two element operands. -/
theorem elements_pass {s : State} {rs1 rs2 : RegIdx} (hcfg : s.cfgValid = true)
    (h1 : operand rs1 s < 2 ^ order s) (h2 : operand rs2 s < 2 ^ order s) :
    firstError [needCfg s, needElement rs1 s, needElement rs2 s] = none := by
  simp [hcfg, h1, h2]

/-- Settles O33: the product is the remainder MODR gives of clmul(a, b). -/
theorem mulIsFieldProduct : Obligations.MulIsFieldProduct := by
  intro rd rs1 rs2 s hp hcfg h1 h2
  refine ⟨gfReduce (order s) (polyNat s) (clmul (operand rs1 s) (operand rs2 s)), gfReduce_lt hp _,
    isRemainder_gfReduce hp _, (guarded_of_pass _ _ (elements_pass hcfg h1 h2)).trans ?_⟩
  rw [fieldMul, gfMul_eq_gfReduce_clmul hp (order_pos s) h1 h2]
  rfl

/-- MULL of elements completes with the carry-less product. -/
theorem exec_mull {rd rs1 rs2 : RegIdx} {s : State} (hcfg : s.cfgValid = true)
    (h1 : operand rs1 s < 2 ^ order s) (h2 : operand rs2 s < 2 ^ order s) :
    exec (.mull rd rs1 rs2) s =
      .next (completeToRd rd (clmul (operand rs1 s) (operand rs2 s)) s) := by
  rw [← clmulBits_eq_clmul _ (order_pos s) h2]
  exact guarded_of_pass _ _ (elements_pass hcfg h1 h2)

/-- Settles O34: k turns of R133's loop take every bit of the second operand. -/
theorem mullIsCarrylessProduct : Obligations.MullIsCarrylessProduct := by
  intro rd rs1 rs2 s hcfg h1 h2
  refine ⟨?_, exec_mull hcfg h1 h2⟩
  rw [two_mul]
  exact clmul_lt (order_pos s) h1 h2

/-- MODR of an EE operand completes with the remainder. -/
theorem exec_modr {rd rs1 : RegIdx} {s : State} (hcfg : s.cfgValid = true)
    (h1 : operand rs1 s < 2 ^ doubleWidthOf s.ksel) :
    exec (.modr rd rs1) s =
      .next (completeToRd rd (gfReduce (order s) (polyNat s) (operand rs1 s)) s) :=
  guarded_of_pass _ _ (by simp [hcfg, h1])

/-- Settles O35: the loop answers the remainder (`isRemainder_gfReduce`). -/
theorem modrIsRemainder : Obligations.ModrIsRemainder :=
  fun _ _ _ hp hcfg h1 => ⟨_, gfReduce_lt hp _, isRemainder_gfReduce hp _, exec_modr hcfg h1⟩

/-- The destination of a completed command holds its result as an operand. -/
theorem operand_completeToRd {v : Nat} (hv : v < 2 ^ 64) (rd : RegIdx) (s : State) :
    operand rd (completeToRd rd v s) = v := by
  rw [operand, completeToRd, readReg_completeWordToRd_same, BitVec.toNat_ofNat, Nat.mod_eq_of_lt hv]

/-- Settles O39: MULL leaves clmul(a, b), an EE operand, in rd, and MUL answers its remainder. -/
theorem modrOfMullIsMul : Obligations.ModrOfMullIsMul := by
  intro rd rs1 rs2 s hp hcfg h1 h2
  let t := completeToRd rd (clmul (operand rs1 s) (operand rs2 s)) s
  have hwide : clmul (operand rs1 s) (operand rs2 s) < 2 ^ doubleWidthOf s.ksel := by
    have := two_mul_order_le_doubleWidth s
    exact (clmul_lt (order_pos s) h1 h2).trans_le (Nat.pow_le_pow_right Nat.two_pos (by omega))
  have hop : operand rd t = clmul (operand rs1 s) (operand rs2 s) :=
    operand_completeToRd
      (hwide.trans_le (Nat.pow_le_pow_right Nat.two_pos (doubleWidthOf_le s.ksel))) rd s
  have hmodr := exec_modr (rd := rd) (rs1 := rd) (s := t) hcfg (hop ▸ hwide)
  refine ⟨t, _, _, exec_mull hcfg h1 h2, hmodr,
    guarded_of_pass _ _ (elements_pass hcfg h1 h2), ?_, rfl⟩
  rw [hop, fieldMul, gfMul_eq_gfReduce_clmul hp (order_pos s) h1 h2]
  rfl

end Sys2Proof.Machine
end

section
/-! PROOF. The ring of residues modulo FULL_POLY: INV and DIV find the inverse wherever there is
one, and POW is the power (R135 to R137). -/

namespace Sys2Proof.Machine

open Polynomial

/-! ### Residues modulo FULL_POLY -/

/-- FULL_POLY as a polynomial over GF(2). -/
noncomputable def modulus (k poly : Nat) : (ZMod 2)[X] := toPoly (fullPolyOf k poly)

/-- The residue of a number's polynomial modulo FULL_POLY. -/
noncomputable def residue (k poly a : Nat) : AdjoinRoot (modulus k poly) :=
  AdjoinRoot.mk (modulus k poly) (toPoly a)

theorem residue_xor (k poly a b : Nat) :
    residue k poly (a ^^^ b) = residue k poly a + residue k poly b := by
  rw [residue, toPoly_xor, map_add]
  rfl

theorem residue_clmul (k poly a b : Nat) :
    residue k poly (clmul a b) = residue k poly a * residue k poly b := by
  rw [residue, toPoly_clmul, map_mul]
  rfl

@[simp] theorem residue_zero (k poly : Nat) : residue k poly 0 = 0 := by
  rw [residue, toPoly_zero, map_zero]

@[simp] theorem residue_one (k poly : Nat) : residue k poly 1 = 1 := by
  rw [residue, toPoly_one, map_one]

/-- FULL_POLY's residue is 0. -/
@[simp] theorem residue_fullPolyOf (k poly : Nat) : residue k poly (fullPolyOf k poly) = 0 :=
  AdjoinRoot.mk_self

/-- Numbers have one residue where FULL_POLY divides their sum. -/
theorem residue_eq_iff (k poly a b : Nat) :
    residue k poly a = residue k poly b ↔ modulus k poly ∣ toPoly (a ^^^ b) := by
  have hsub : toPoly (a ^^^ b) = toPoly a - toPoly b := by rw [toPoly_xor, CharTwo.sub_eq_add]
  rw [hsub]
  exact AdjoinRoot.mk_eq_mk

/-- The iterated product is below 2^k. -/
theorem mulPower_lt_two_pow {k : Nat} (hk : 0 < k) (poly a e : Nat) :
    mulPower k poly a e < 2 ^ k := by
  induction e with
  | zero => exact Nat.one_lt_two_pow hk.ne'
  | succ e ih => exact gfMul_lt poly a hk ih

section Field

variable {k poly : Nat} (hp : poly < 2 ^ k)
include hp

/-- FULL_POLY has degree k. -/
theorem degree_modulus : (modulus k poly).degree = k := by
  rw [modulus, fullPolyOf_eq_xor hp, toPoly_xor, toPoly_two_pow, add_comm,
    degree_add_eq_left_of_degree_lt] <;> rw [degree_X_pow]
  exact degree_toPoly_lt hp

/-- Elements with one residue are one element. -/
theorem eq_of_residue_eq {a b : Nat} (ha : a < 2 ^ k) (hb : b < 2 ^ k)
    (h : residue k poly a = residue k poly b) : a = b := by
  have hdvd := (residue_eq_iff k poly a b).1 h
  have hzero : toPoly (a ^^^ b) = 0 := eq_zero_of_dvd_of_degree_lt hdvd (by
    rw [degree_modulus hp]
    exact degree_toPoly_lt (Nat.xor_lt_two_pow ha hb))
  exact Nat.xor_eq_zero_iff.1 (toPoly_injective (hzero.trans toPoly_zero.symm))

/-- MODR keeps the residue. -/
theorem residue_gfReduce (x : Nat) : residue k poly (gfReduce k poly x) = residue k poly x := by
  obtain ⟨q, hq⟩ := exists_xor_gfReduce_eq_clmul hp x
  refine ((residue_eq_iff k poly _ _).2 ⟨toPoly q, ?_⟩).symm
  rw [hq, toPoly_clmul, mul_comm]
  rfl

variable (hk : 0 < k)
include hk

/-- MUL is the product of residues. -/
theorem residue_gfMul {a b : Nat} (ha : a < 2 ^ k) (hb : b < 2 ^ k) :
    residue k poly (gfMul k poly a b) = residue k poly a * residue k poly b := by
  rw [gfMul_eq_gfReduce_clmul hp hk ha hb, residue_gfReduce hp, residue_clmul]

/-- MUL answers 1 exactly for inverse residues. -/
theorem gfMul_eq_one_iff {a b : Nat} (ha : a < 2 ^ k) (hb : b < 2 ^ k) :
    gfMul k poly a b = 1 ↔ residue k poly a * residue k poly b = 1 := by
  rw [← residue_gfMul hp hk ha hb, ← residue_one k poly]
  exact ⟨fun h => h ▸ rfl,
    eq_of_residue_eq hp (gfMul_lt poly b hk ha) (Nat.one_lt_two_pow hk.ne')⟩

/-- An element has at most one inverse. -/
theorem inverse_unique {a r t : Nat} (ha : a < 2 ^ k) (hr : r < 2 ^ k) (ht : t < 2 ^ k)
    (har : gfMul k poly a r = 1) (hat : gfMul k poly a t = 1) : r = t := by
  rw [gfMul_eq_one_iff hp hk ha hr] at har
  rw [gfMul_eq_one_iff hp hk ha ht] at hat
  exact eq_of_residue_eq hp hr ht (left_inv_eq_right_inv (mul_comm _ (residue k poly a) ▸ har) hat)

/-! ### The powers of POW (R137) -/

/-- The iterated product is the power of the residue. -/
theorem residue_mulPower {a : Nat} (ha : a < 2 ^ k) (e : Nat) :
    residue k poly (mulPower k poly a e) = residue k poly a ^ e := by
  induction e with
  | zero => simp [mulPower]
  | succ e ih =>
    rw [mulPower, residue_gfMul hp hk (mulPower_lt_two_pow hk poly a e) ha, ih, pow_succ]

/-- The scan of R137 over the bits i-1 to 0 of e squares at each, and multiplies by a at a bit that
is 1. -/
theorem gfPowLoop_residue {a : Nat} (ha : a < 2 ^ k) (e i r : Nat) (hr : r < 2 ^ k)
    (hres : residue k poly r = residue k poly a ^ (e >>> i)) :
    gfPowLoop k poly a e i r < 2 ^ k ∧
      residue k poly (gfPowLoop k poly a e i r) = residue k poly a ^ e := by
  induction i generalizing r with
  | zero => exact ⟨hr, hres⟩
  | succ i ih =>
    have hsquare := gfMul_lt poly r hk hr
    have hshift : e >>> i = 2 * (e >>> (i + 1)) + (e.testBit i).toNat := by
      rw [Nat.toNat_testBit, Nat.shiftRight_succ, Nat.shiftRight_eq_div_pow]
      omega
    rw [gfPowLoop]
    refine ih _ ?_ ?_
    · split
      · exact gfMul_lt poly a hk hsquare
      · exact hsquare
    · rw [hshift, pow_add, two_mul, pow_add, ← hres]
      cases e.testBit i
      · simp [residue_gfMul hp hk hr hr]
      · simp [residue_gfMul hp hk hr hr, residue_gfMul hp hk hsquare ha]

/-- POW is the iterated product with the reduced exponent (R137). -/
theorem gfPow_eq_mulPower {a : Nat} (ha : a < 2 ^ k) (b : Nat) :
    gfPow k poly a b = mulPower k poly a (b % (2 ^ k - 1)) := by
  generalize he : b % (2 ^ k - 1) = e
  by_cases hzero : e = 0
  · simp [gfPow, he, hzero, mulPower]
  · rw [gfPow, he, if_neg hzero]
    have hturns : e >>> (deg e + 1).toNat = 0 := by
      rw [deg_of_ne_zero hzero, Nat.shiftRight_eq_div_pow]
      exact Nat.div_eq_of_lt Nat.lt_log2_self
    obtain ⟨hlt, hres⟩ := gfPowLoop_residue hp hk ha e (deg e + 1).toNat 1
      (Nat.one_lt_two_pow hk.ne') (by rw [hturns]; simp)
    exact eq_of_residue_eq hp hlt (mulPower_lt_two_pow hk poly a e)
      (hres.trans (residue_mulPower hp hk ha e).symm)

end Field

/-- Settles O38: POW's scan is the power in the ring of residues (`gfPow_eq_mulPower`). -/
theorem powIsIteratedMul : Obligations.PowIsIteratedMul := by
  intro rd rs1 rs2 s hp hcfg h1 h2
  rw [← gfPow_eq_mulPower hp (order_pos s) h1]
  exact guarded_of_pass _ _ (by simp [hcfg, h1, h2])

/-! ### The Euclidean loop of INV (R135) -/

/-- What every turn of R135's loop keeps for the element a: a times z is u and a times g is v modulo
FULL_POLY, the common divisors of u and v are among those of FULL_POLY and a, and the degrees of z
and g are bounded by those of v and u. -/
structure EuclidInv (k poly a : Nat) (e : Euclid) : Prop where
  mul_z : residue k poly a * residue k poly e.z = residue k poly e.u
  mul_g : residue k poly a * residue k poly e.g = residue k poly e.v
  common : ∀ d, d ∣ toPoly e.u → d ∣ toPoly e.v → d ∣ modulus k poly ∧ d ∣ toPoly a
  deg_z : deg e.z + deg e.v ≤ k
  deg_g : deg e.g + deg e.u ≤ k

/-- The swap of R135. -/
def euclidSwap (e : Euclid) : Euclid := { u := e.v, z := e.g, v := e.u, g := e.z }

/-- The shifted addition of R135. -/
def euclidAdd (i : Nat) (e : Euclid) : Euclid :=
  { e with u := e.u ^^^ (e.v <<< i), z := e.z ^^^ (e.g <<< i) }

/-- A turn is an addition, past a swap if deg(u) < deg(v). -/
theorem euclidTurn_eq (e : Euclid) :
    euclidTurn e = euclidAdd (deg e.u - deg e.v).natAbs
      (if deg e.u - deg e.v < 0 then euclidSwap e else e) := rfl

theorem EuclidInv.swap {k poly a : Nat} {e : Euclid} (h : EuclidInv k poly a e) :
    EuclidInv k poly a (euclidSwap e) :=
  ⟨h.mul_g, h.mul_z, fun d hu hv => h.common d hv hu, h.deg_g, h.deg_z⟩

/-- A sum's degree is at most the larger of its summands'. -/
theorem deg_xor_le {x y : Nat} {d : Int} (hx : deg x ≤ d) (hy : deg y ≤ d) : deg (x ^^^ y) ≤ d := by
  have := neg_one_le_deg x
  obtain ⟨n, rfl⟩ : ∃ n : Nat, d = n - 1 := ⟨(d + 1).toNat, by omega⟩
  have hxy := Nat.xor_lt_two_pow ((deg_lt_iff x n).1 (by omega)) ((deg_lt_iff y n).1 (by omega))
  have := (deg_lt_iff (x ^^^ y) n).2 hxy
  omega

/-- A shift raises a degree by at most the shift. -/
theorem deg_shiftLeft_le (x i : Nat) : deg (x <<< i) ≤ deg x + i := by
  by_cases hx : x = 0
  · subst hx
    simp
  · rw [deg_of_ne_zero hx, deg_of_ne_zero (shiftLeft_ne_zero hx i), log2_shiftLeft_of_ne_zero hx]
    rfl

theorem residue_shiftLeft (k poly a i : Nat) :
    residue k poly (a <<< i) = residue k poly a * residue k poly (1 <<< i) := by
  rw [← residue_clmul, clmul_comm, clmul_one_shiftLeft]

theorem EuclidInv.add {k poly a : Nat} {e : Euclid} (h : EuclidInv k poly a e) {i : Nat}
    (hi : (i : Int) = deg e.u - deg e.v) (hlower : deg (e.u ^^^ (e.v <<< i)) ≤ deg e.u) :
    EuclidInv k poly a (euclidAdd i e) where
  mul_z := by
    simp only [euclidAdd, residue_xor, residue_shiftLeft _ _ e.v, residue_shiftLeft _ _ e.g,
      mul_add, ← mul_assoc, h.mul_z, h.mul_g]
  mul_g := h.mul_g
  common d hu hv := by
    refine h.common d ?_ hv
    have hsum : toPoly (e.u ^^^ (e.v <<< i)) = toPoly e.u + toPoly e.v * X ^ i := by
      rw [toPoly_xor, toPoly_shiftLeft]
    exact (dvd_add_left (hv.mul_right _)).1 (hsum ▸ hu)
  deg_z := by
    have := deg_shiftLeft_le e.g i
    have := h.deg_z
    have := h.deg_g
    have := deg_xor_le (d := k - deg e.v) (x := e.z) (y := e.g <<< i) (by omega) (by omega)
    simp only [euclidAdd]
    omega
  deg_g := by
    have := h.deg_g
    simp only [euclidAdd]
    omega

/-- A turn from u and v above 1 keeps the invariant. -/
theorem EuclidInv.turn {k poly a : Nat} {e : Euclid} (h : EuclidInv k poly a e) (hu : 2 ≤ e.u)
    (hv : 2 ≤ e.v) : EuclidInv k poly a (euclidTurn e) := by
  rw [euclidTurn_eq]
  split
  next hlt =>
    have hn : (deg e.u - deg e.v).natAbs = (deg e.v - deg e.u).natAbs := by omega
    have hlower := euclid_add_deg_lt (u := e.v) (v := e.u) (by omega) (by omega) (by omega)
    rw [hn]
    exact h.swap.add (by simp only [euclidSwap]; omega) hlower.le
  next hle =>
    have hlower := euclid_add_deg_lt (u := e.u) (v := e.v) (by omega) (by omega) (by omega)
    exact h.add (by omega) hlower.le

/-- What R135's loop must answer for the element a: an inverse, or none where there is none. -/
def IsInverseAnswer (k poly a : Nat) : Option Nat → Prop
  | some r => r < 2 ^ k ∧ residue k poly a * residue k poly r = 1
  | none => ¬ IsUnit (residue k poly a)

/-- At u = 1, z is an inverse, and an element. -/
theorem EuclidInv.answer_of_one {k poly a : Nat} {e : Euclid} (h : EuclidInv k poly a e)
    (hv : 2 ≤ e.v) (hu : e.u = 1) : IsInverseAnswer k poly a (some e.z) := by
  have := one_le_deg hv
  have := h.deg_z
  exact ⟨(deg_lt_iff _ _).1 (by omega), by rw [h.mul_z, hu, residue_one]⟩

/-- A number above 1 is no unit as a polynomial. -/
theorem not_isUnit_toPoly {v : Nat} (hv : 2 ≤ v) : ¬ IsUnit (toPoly v) := by
  intro hunit
  have hlog : 1 ≤ v.log2 := (Nat.le_log2 (by omega)).2 (by omega)
  have hcoeff : (toPoly v).coeff v.log2 ≠ 0 := by
    rw [coeff_toPoly, Nat.testBit_log2 (by omega)]
    decide
  have hdeg := le_natDegree_of_ne_zero hcoeff
  rw [natDegree_eq_zero_of_isUnit hunit] at hdeg
  omega

/-- At u = 0, v is a common divisor of FULL_POLY and a, so a has no inverse. -/
theorem EuclidInv.answer_of_zero {k poly a : Nat} {e : Euclid} (h : EuclidInv k poly a e)
    (hv : 2 ≤ e.v) (hu : e.u = 0) : IsInverseAnswer k poly a none := by
  obtain ⟨hmod, ha⟩ := h.common (toPoly e.v) (by simp [hu]) dvd_rfl
  rintro hunit
  obtain ⟨r, hr⟩ := hunit.exists_right_inv
  obtain ⟨q, rfl⟩ := AdjoinRoot.mk_surjective r
  have hdvd : modulus k poly ∣ toPoly a * q - 1 := by
    rw [← AdjoinRoot.mk_eq_mk, map_mul, map_one]
    exact hr
  exact not_isUnit_toPoly hv (isUnit_of_dvd_one
    ((dvd_sub_right (ha.mul_right q)).1 (hmod.trans hdvd)))

/-- R135's loop answers an inverse, or that there is none, if its turns suffice for the degrees. -/
theorem EuclidInv.answer {k poly a : Nat} (n : Nat) {e : Euclid} (h : EuclidInv k poly a e)
    (hv : 2 ≤ e.v) (hn : deg e.u + deg e.v ≤ n + 1) :
    IsInverseAnswer k poly a (euclidLoop n e) := by
  induction n generalizing e with
  | zero =>
    have := one_le_deg hv
    have hu : ¬ 2 ≤ e.u := fun hu => by have := one_le_deg hu; omega
    rw [euclidLoop]
    split
    next h1 => exact h.answer_of_one hv h1
    next h1 => exact h.answer_of_zero hv (by omega)
  | succ n ih =>
    rw [euclidLoop]
    split
    next h1 => exact h.answer_of_one hv h1
    split
    next h0 => exact h.answer_of_zero hv h0
    next h1 h0 =>
      obtain ⟨hv', hlower⟩ := euclidTurn_lowers (e := e) (by omega) hv
      exact ih (h.turn (by omega) hv) hv' (by push_cast at hn; omega)

/-- INV's answer for a non-zero element (R135). -/
theorem gfInv_answer {k poly a : Nat} (hp : poly < 2 ^ k) (ha : a < 2 ^ k) (hne : a ≠ 0) :
    IsInverseAnswer k poly a (gfInv k poly a) := by
  rw [gfInv, if_neg hne]
  split
  next h1 =>
    subst h1
    exact ⟨ha, by simp⟩
  next h1 =>
    have hdeg := (deg_lt_iff a k).2 ha
    have := one_le_deg (v := a) (by omega)
    have hfull : deg (fullPolyOf k poly) = k := by
      simpa using deg_fullPolyOf_shiftLeft hp 0
    have hone : deg 1 = 0 := rfl
    have hstart : EuclidInv k poly a { u := fullPolyOf k poly, z := 0, v := a, g := 1 } :=
      { mul_z := by simp
        mul_g := by simp
        common := fun d hu hv => ⟨hu, hv⟩
        deg_z := by simp only [deg_zero]; omega
        deg_g := by simp only [hone, hfull]; omega }
    exact hstart.answer _ (by simp only; omega) (by simp only [hfull]; omega)

section Inverse

variable {k poly a : Nat} (hp : poly < 2 ^ k) (hk : 0 < k) (ha : a < 2 ^ k)
include hp hk ha

/-- INV finds the inverse where there is one. -/
theorem gfInv_of_inverse {r : Nat} (hr : r < 2 ^ k) (h : gfMul k poly a r = 1) :
    gfInv k poly a = some r := by
  have hne : a ≠ 0 := by
    rintro rfl
    rw [gfMul_zero_left] at h
    cases h
  have hanswer := gfInv_answer hp ha hne
  cases hinv : gfInv k poly a with
  | none =>
    rw [hinv] at hanswer
    exact absurd (IsUnit.of_mul_eq_one _ ((gfMul_eq_one_iff hp hk ha hr).1 h)) hanswer
  | some t =>
    rw [hinv] at hanswer
    obtain ⟨ht, hat⟩ := hanswer
    rw [inverse_unique hp hk ha hr ht h ((gfMul_eq_one_iff hp hk ha ht).2 hat)]

/-- INV answers none where there is no inverse. -/
theorem gfInv_of_no_inverse (hne : a ≠ 0) (h : ∀ r, r < 2 ^ k → gfMul k poly a r ≠ 1) :
    gfInv k poly a = none := by
  have hanswer := gfInv_answer hp ha hne
  cases hinv : gfInv k poly a with
  | none => rfl
  | some t =>
    rw [hinv] at hanswer
    obtain ⟨ht, hat⟩ := hanswer
    exact absurd ((gfMul_eq_one_iff hp hk ha ht).2 hat) (h t ht)

end Inverse

/-- Settles O36: INV completes with the loop's answer (`gfInv_of_inverse`,
`gfInv_of_no_inverse`). -/
theorem invIsTheInverse : Obligations.InvIsTheInverse := by
  intro rd rs1 s hp hcfg h1
  have hexec : exec (.inv rd rs1) s =
      .next (completeInverse rd (gfInv (order s) (polyNat s) (operand rs1 s)) s) :=
    guarded_of_pass _ _ (by simp [hcfg, h1])
  rw [hexec]
  refine ⟨fun hzero => ?_, fun r hr hinv => ?_, fun hne hnone => ?_⟩
  · rw [hzero]
    rfl
  · rw [gfInv_of_inverse hp (order_pos s) h1 hr hinv]
    rfl
  · rw [gfInv_of_no_inverse hp (order_pos s) h1 hne hnone]
    rfl

/-- Settles O37: DIV multiplies by INV's answer for the divisor. -/
theorem divMultipliesByTheInverse : Obligations.DivMultipliesByTheInverse := by
  intro rd rs1 rs2 s hp hcfg h1 h2
  have hexec : exec (.div rd rs1 rs2) s = .next (completeInverse rd
      ((gfInv (order s) (polyNat s) (operand rs2 s)).map (fieldMul s (operand rs1 s))) s) :=
    guarded_of_pass _ _ (elements_pass hcfg h1 h2)
  rw [hexec]
  refine ⟨fun hzero => ?_, fun r hr hinv => ?_, fun hne hnone => ?_⟩
  · have hprod : fieldMul s (operand rs1 s) 0 = 0 := gfMul_zero_right hp (order_pos s) h1
    have hinv : gfInv (order s) (polyNat s) 0 = some 0 := rfl
    rw [hzero, hinv, Option.map_some, hprod]
    rfl
  · rw [gfInv_of_inverse hp (order_pos s) h2 hr hinv]
    rfl
  · rw [gfInv_of_no_inverse hp (order_pos s) h2 hne hnone]
    rfl

end Sys2Proof.Machine
end

section
/-! PROOF. The log and exp tables compute in the field: what a passed generator check means (R161),
and the conformance laws of MULX, INVX and POWX (R170). -/

namespace Sys2Proof.Machine

/-! ### Powers (R137) -/

section Field

variable {k poly : Nat} (hp : poly < 2 ^ k) (hk : 0 < k)
include hp hk

theorem gfMul_mulPower_mulPower {a : Nat} (ha : a < 2 ^ k) (i j : Nat) :
    gfMul k poly (mulPower k poly a i) (mulPower k poly a j) = mulPower k poly a (i + j) := by
  have hi := mulPower_lt_two_pow hk poly a i
  have hj := mulPower_lt_two_pow hk poly a j
  refine eq_of_residue_eq hp (gfMul_lt poly _ hk hi) (mulPower_lt_two_pow hk poly a _) ?_
  rw [residue_gfMul hp hk hi hj, residue_mulPower hp hk ha, residue_mulPower hp hk ha,
    residue_mulPower hp hk ha, pow_add]

theorem mulPower_mulPower {a : Nat} (ha : a < 2 ^ k) (i n : Nat) :
    mulPower k poly (mulPower k poly a i) n = mulPower k poly a (i * n) := by
  have hi := mulPower_lt_two_pow hk poly a i
  refine eq_of_residue_eq hp (mulPower_lt_two_pow hk poly _ n) (mulPower_lt_two_pow hk poly a _) ?_
  rw [residue_mulPower hp hk hi, residue_mulPower hp hk ha, residue_mulPower hp hk ha, pow_mul]

/-- A power of 0 is 0, but for the empty product. -/
theorem mulPower_zero_base (e : Nat) : mulPower k poly 0 e = if e = 0 then 1 else 0 := by
  cases e with
  | zero => rfl
  | succ e => exact gfMul_zero_right hp hk (mulPower_lt_two_pow hk poly 0 e)

end Field

/-! ### The generator check (R161) -/

/-- g^i times g^(255-i) is 1. -/
theorem IsGenerator.gfMul_inverse {poly g : Nat} (hg : IsGenerator poly g) (hp : poly < 256)
    (hlt : g < 256) {i : Nat} (hi : i ≤ 255) :
    gfMul 8 poly (mulPower 8 poly g i) (mulPower 8 poly g (255 - i)) = 1 := by
  rw [gfMul_mulPower_mulPower (k := 8) hp (by omega) hlt, Nat.add_sub_cancel' hi]
  exact hg.2

/-- Settles O42: g^0 .. g^254 are distinct (`mulPower_injOn`) and run through the non-zero bytes
(`exists_mulPower_eq`), so that each has an inverse. -/
theorem generatorCheckMeansOrder255 : Obligations.GeneratorCheckMeansOrder255 := by
  intro poly g hp hlt
  refine ⟨generatorCheck_iff_isGenerator poly g, fun hcheck => ?_⟩
  have hg := (generatorCheck_iff_isGenerator poly g).1 hcheck
  refine ⟨fun i j hij hj heq => ?_, fun i hi => ⟨hg.mulPower_ne_zero hi.le, mulPower_lt poly g i⟩,
    fun a ha ha' => ?_⟩
  · exact hij.ne (hg.mulPower_injOn (hij.trans hj) hj heq)
  · obtain ⟨i, hi, rfl⟩ := hg.exists_mulPower_eq ha ha'
    exact ⟨_, mulPower_lt poly g _, hg.gfMul_inverse hp hlt hi.le⟩

/-! ### The tables while LX_VALID = 1 -/

/-- Guarded commands that raise the same error, and pass to the same outcome, are the same. -/
theorem guarded_congr_pass {cs ds : List (Option CC)} {s t u : State}
    (hchecks : firstError cs = firstError ds) (hpass : firstError ds = none → t = u) :
    guarded cs s t = guarded ds s u := by
  rw [guarded_congr hchecks]
  cases hd : firstError ds with
  | none => rw [hpass hd]
  | some c => rw [guarded_of_error _ _ hd, guarded_of_error _ _ hd]

section LogExp

variable {s : State} (hinv : BlockInv s) (hlx : s.lxValid = true)
include hinv hlx

/-- LX_VALID = 1 only at a configured k = 8. -/
theorem BlockInv.lx_field : s.cfgValid = true ∧ s.ksel = .k8 := by
  have hcons := hinv.lx
  rw [LxConsistent, if_pos hlx] at hcons
  exact ⟨hcons.1, hcons.2.1⟩

theorem BlockInv.lx_order : order s = 8 := by
  rw [order, (hinv.lx_field hlx).2]
  rfl

theorem BlockInv.lx_polyNat_lt : polyNat s < 2 ^ 8 := hinv.lx_order hlx ▸ hinv.polyBelow

/-- EXP holds 0 at the indices below BIAS. -/
theorem expAt_low {idx : Int} (h0 : 0 ≤ idx) (h1 : idx < 512) : expAt s idx = 0 := by
  obtain ⟨-, -, hexp⟩ := hinv.isGenerator hlx
  have hentry := expTable_low (polyNat s) s.gen.toNat (j := idx.toNat) (by omega)
  rw [expAt_of_getElem? (Int.toNat_of_nonneg h0).symm (hexp ▸ hentry)]
  rfl

/-- EXP holds 0 at its last index. -/
theorem expAt_last : expAt s 1023 = 0 := by
  obtain ⟨-, -, hexp⟩ := hinv.isGenerator hlx
  have hentry := expTable_last (polyNat s) s.gen.toNat
  exact expAt_of_getElem? rfl (hexp ▸ hentry)

/-- EXP holds g^j at BIAS + j, over both periods. -/
theorem expAt_bias_add {idx : Int} {j : Nat} (hidx : idx = 512 + j) (hj : j < 511) :
    expAt s idx = mulPower 8 (polyNat s) s.gen.toNat j := by
  obtain ⟨hg, -, hexp⟩ := hinv.isGenerator hlx
  have hentry := expTable_mulPower_mod hg hj
  rw [hg.mulPower_mod] at hentry
  rw [expAt_of_getElem? (j := 512 + j) (by omega) (hexp ▸ hentry), BitVec.toNat_ofNat,
    Nat.mod_eq_of_lt (mulPower_lt _ _ _)]

omit hinv hlx in
/-- POWX's index at the sentinel: 256·b and b have one remainder by 255. -/
theorem powxIndex_of_sentinel {a : Nat} (ha : logOf s a = -256) (b : Nat) :
    powxIndex s a b = 512 - ((b % (2 ^ 8 - 1) : Nat) : Int) := by
  have hmod : 256 * b % 255 = b % (2 ^ 8 - 1) := by omega
  have hprod : (-256 : Int) * b = -((256 * b : Nat) : Int) := by push_cast; ring
  rw [powxIndex, ha, bias, hprod, Int.neg_tmod, ← hmod, Int.ofNat_tmod]
  rfl

/-! ### MULX, INVX and POWX on table entries (R166 to R168, R170) -/

theorem expAt_mulxIndex {a b : Nat} (ha : a < 256) (hb : b < 256) :
    expAt s (mulxIndex s a b) = gfMul 8 (polyNat s) a b := by
  obtain ⟨hg, -, -⟩ := hinv.isGenerator hlx
  have hp := hinv.lx_polyNat_lt hlx
  have := logOf_bounds hinv hlx ha
  have := logOf_bounds hinv hlx hb
  obtain rfl | hapos := Nat.eq_zero_or_pos a
  · rw [gfMul_zero_left]
    refine expAt_low hinv hlx ?_ ?_ <;> rw [mulxIndex, logOf_zero hinv hlx, bias] <;> omega
  obtain rfl | hbpos := Nat.eq_zero_or_pos b
  · rw [gfMul_zero_right hp (by omega) ha]
    refine expAt_low hinv hlx ?_ ?_ <;> rw [mulxIndex, logOf_zero hinv hlx, bias] <;> omega
  obtain ⟨i, hi, rfl⟩ := hg.exists_mulPower_eq hapos ha
  obtain ⟨j, hj, rfl⟩ := hg.exists_mulPower_eq hbpos hb
  rw [gfMul_mulPower_mulPower hp (by omega) s.gen.isLt]
  refine expAt_bias_add hinv hlx ?_ (by omega)
  rw [mulxIndex, logOf_mulPower hinv hlx hi, logOf_mulPower hinv hlx hj, bias]
  push_cast
  ring

theorem gfInv_eq_expAt_invxIndex {a : Nat} (ha : a < 256) :
    gfInv 8 (polyNat s) a = some (expAt s (invxIndex s a)) := by
  obtain ⟨hg, -, -⟩ := hinv.isGenerator hlx
  have hp := hinv.lx_polyNat_lt hlx
  obtain rfl | hapos := Nat.eq_zero_or_pos a
  · rw [invxIndex, logOf_zero hinv hlx, bias]
    exact congrArg some (expAt_last hinv hlx).symm
  obtain ⟨i, hi, rfl⟩ := hg.exists_mulPower_eq hapos ha
  rw [expAt_bias_add hinv hlx (j := 255 - i) ?_ (by omega)]
  · exact gfInv_of_inverse hp (by omega) ha (mulPower_lt _ _ _)
      (hg.gfMul_inverse hp s.gen.isLt hi.le)
  · rw [invxIndex, logOf_mulPower hinv hlx hi, bias]
    omega

theorem expAt_powxIndex {a : Nat} (ha : a < 256) (b : Nat) :
    expAt s (powxIndex s a b) = gfPow 8 (polyNat s) a b := by
  obtain ⟨hg, -, -⟩ := hinv.isGenerator hlx
  have hp := hinv.lx_polyNat_lt hlx
  rw [gfPow_eq_mulPower hp (by omega) ha]
  obtain rfl | hapos := Nat.eq_zero_or_pos a
  · rw [mulPower_zero_base hp (by omega)]
    have hidx := powxIndex_of_sentinel (logOf_zero hinv hlx) b
    have hlow : b % (2 ^ 8 - 1) < 255 := Nat.mod_lt _ (by omega)
    split
    next hzero => exact expAt_bias_add hinv hlx (j := 0) (by rw [hidx, hzero]; rfl) (by omega)
    next hne => exact expAt_low hinv hlx (by omega) (by omega)
  obtain ⟨i, hi, rfl⟩ := hg.exists_mulPower_eq hapos ha
  have hmod : i * (b % (2 ^ 8 - 1)) % 255 = i * b % 255 := Nat.mul_mod_mod i b 255
  rw [mulPower_mulPower hp (by omega) s.gen.isLt, ← hg.mulPower_mod (i * _)]
  refine expAt_bias_add hinv hlx ?_ (by omega)
  rw [powxIndex, logOf_mulPower hinv hlx hi, bias, hmod, Int.ofNat_tmod]
  rfl

end LogExp

/-- Settles O49: the checks agree at k = 8, and EXP holds the product (`expAt_mulxIndex`). -/
theorem mulxEqualsMul : Obligations.MulxEqualsMul := by
  intro rd rs1 rs2 s hinv hlx
  have hk := (hinv.lx_field hlx).2
  have horder := hinv.lx_order hlx
  refine guarded_congr_pass ?_ fun hpass => ?_
  · simp [firstError_cons, needOrder, needLx, needElement, hk, hlx, horder]
  · simp only [firstError_cons_eq_none, needElement_eq_none, horder] at hpass
    obtain ⟨-, h1, h2, -⟩ := hpass
    rw [expAt_mulxIndex hinv hlx h1 h2, fieldMul, horder]

/-- Settles O50: the checks agree at k = 8, and EXP holds the inverse
(`gfInv_eq_expAt_invxIndex`). -/
theorem invxEqualsInv : Obligations.InvxEqualsInv := by
  intro rd rs1 s hinv hlx
  have hk := (hinv.lx_field hlx).2
  have horder := hinv.lx_order hlx
  refine guarded_congr_pass ?_ fun hpass => ?_
  · simp [firstError_cons, needOrder, needLx, needElement, hk, hlx, horder]
  · simp only [firstError_cons_eq_none, needElement_eq_none, horder] at hpass
    obtain ⟨-, h1, -⟩ := hpass
    rw [horder, gfInv_eq_expAt_invxIndex hinv hlx h1]
    rfl

/-- Settles O51: the checks agree at k = 8, and EXP holds the power (`expAt_powxIndex`). -/
theorem powxEqualsPow : Obligations.PowxEqualsPow := by
  intro rd rs1 rs2 s hinv hlx
  have hk := (hinv.lx_field hlx).2
  have horder := hinv.lx_order hlx
  have hdouble : doubleWidthOf .k8 = 16 := rfl
  refine guarded_congr_pass ?_ fun hpass => ?_
  · simp [firstError_cons, needOrder, needLx, needElement, needDouble, hk, hlx, horder, hdouble]
  · simp only [firstError_cons_eq_none, needElement_eq_none, horder] at hpass
    obtain ⟨-, h1, -⟩ := hpass
    rw [horder, expAt_powxIndex hinv hlx h1]

end Sys2Proof.Machine
end

section
/-! PROOF. The decomposition multiplier: nibble products, the byte-wise reduction, and the
conformance laws of MSL8, MODRB and MULD (R192, R193, R196 to R199). -/

namespace Sys2Proof.Machine

/-! ### Nibble and byte products (R192, R193) -/

/-- Settles O52: NBROM holds the product (`nbRom_eq_clmul`), and NBM checks its operands alone. -/
theorem nbmIsCarrylessProduct : Obligations.NbmIsCarrylessProduct := by
  intro rd rs1 rs2 s h1 h2
  refine ⟨clmul_lt (m := 8) (n := 4) (by omega) h1 h2,
    (guarded_of_pass _ _ (by simp [h1, h2])).trans ?_⟩
  rw [nibbleByte, nbRom_eq_clmul h2 h1]
  rfl

/-- A number is its high part, shifted, and its low part. -/
theorem div_shiftLeft_xor_mod (x n : Nat) : ((x / 2 ^ n) <<< n) ^^^ (x % 2 ^ n) = x := by
  refine Nat.eq_of_testBit_eq fun i => ?_
  rw [Nat.testBit_xor, Nat.testBit_shiftLeft, Nat.testBit_mod_two_pow, Nat.testBit_div_two_pow]
  by_cases h : n ≤ i
  · simp [h, Nat.not_lt.2 h]
  · simp [h, Nat.lt_of_not_le h]

/-- The products of a byte with the two nibbles of another add to their product (R192). -/
theorem lmull_xor_rmull {x y : Nat} (hx : x < 256) (hy : y < 256) :
    lmull x (y / 16) ^^^ rmull x (y % 16) = clmul y x := by
  have hhigh : lmull x (y / 16) = clmul x (y / 16) <<< 4 := by
    rw [lmull, nibbleByte, nbRom_eq_clmul (by omega) hx]
  have hlow : rmull x (y % 16) = clmul x (y % 16) := by
    rw [rmull, nibbleByte, nbRom_eq_clmul (by omega) hx]
  rw [hhigh, hlow, ← clmul_shiftLeft_right, ← clmul_xor_right, clmul_comm]
  exact congrArg (clmul · x) (div_shiftLeft_xor_mod y 4)

/-- The same, added to a running sum. -/
theorem xor_lmull_xor_rmull {x y : Nat} (r : Nat) (hx : x < 256) (hy : y < 256) :
    r ^^^ lmull x (y / 16) ^^^ rmull x (y % 16) = r ^^^ clmul y x := by
  rw [Nat.xor_assoc, lmull_xor_rmull hx hy]

/-- A field of bits as a quotient and a remainder (R12). -/
theorem bitsOf_eq_div_mod (v hi lo : Nat) :
    bitsOf v hi lo = v / 2 ^ lo % 2 ^ (hi + 1 - lo) := by
  rw [bitsOf, Nat.shiftRight_eq_div_pow]

/-- MULD's product, by bytes (R197). -/
theorem mulDecomposed_eq (s : State) {a b : Nat} (ha : a < 65536) (hb : b < 65536) :
    mulDecomposed s a b =
      shiftReduce8 s (shiftReduce8 s (clmul (a / 256) (b / 256)) ^^^ clmul (a / 256) (b % 256) ^^^
        clmul (a % 256) (b / 256)) ^^^ clmul (a % 256) (b % 256) := by
  have h3 : bitsOf a 15 12 = a / 256 / 16 := by rw [bitsOf_eq_div_mod]; omega
  have h2 : bitsOf a 11 8 = a / 256 % 16 := by rw [bitsOf_eq_div_mod]; omega
  have h1 : bitsOf a 7 4 = a % 256 / 16 := by rw [bitsOf_eq_div_mod]; omega
  have h0 : bitsOf a 3 0 = a % 256 % 16 := by rw [bitsOf_eq_div_mod]; omega
  have hb1 : bitsOf b 15 8 = b / 256 := by rw [bitsOf_eq_div_mod]; omega
  have hb0 : bitsOf b 7 0 = b % 256 := by rw [bitsOf_eq_div_mod]; omega
  have hhi : a / 256 < 256 := by omega
  have hlo : a % 256 < 256 := by omega
  have hb1' : b / 256 < 256 := by omega
  have hb0' : b % 256 < 256 := by omega
  simp only [mulDecomposed, h3, h2, h1, h0, hb1, hb0, lmull_xor_rmull hb1' hhi,
    xor_lmull_xor_rmull _ hb0' hhi, xor_lmull_xor_rmull _ hb1' hlo, xor_lmull_xor_rmull _ hb0' hlo]

/-- Settles O57: MULD's nibble steps add to byte products (`mulDecomposed_eq`). -/
theorem muldEvaluatesByBytes : Obligations.MuldEvaluatesByBytes := by
  intro rd rs1 rs2 s hcfg hk hrt h1 h2 aH aL b1 b0
  refine ⟨_, _, rfl, rfl, (guarded_of_pass _ _ (by simp [hcfg, hk, hrt, h1, h2])).trans ?_⟩
  rw [mulDecomposed_eq s h1 h2]
  rfl

/-- The schoolbook product of two numbers of two bytes, in Horner form. -/
theorem clmul_bytes (a b : Nat) :
    clmul a b = ((clmul (a / 256) (b / 256) <<< 8) ^^^
      (clmul (a / 256) (b % 256) ^^^ clmul (a % 256) (b / 256))) <<< 8 ^^^
        clmul (a % 256) (b % 256) := by
  have ha : ((a / 256) <<< 8) ^^^ (a % 256) = a := div_shiftLeft_xor_mod a 8
  have hb : ((b / 256) <<< 8) ^^^ (b % 256) = b := div_shiftLeft_xor_mod b 8
  have hleft : ∀ u v n, clmul (u <<< n) v = clmul u v <<< n := fun u v n => by
    rw [clmul_comm, clmul_shiftLeft_right, clmul_comm]
  conv_lhs => rw [← ha, ← hb]
  simp only [clmul_xor_left, clmul_xor_right, clmul_shiftLeft_right, hleft,
    Nat.shiftLeft_xor_distrib, Nat.xor_assoc]
  rw [Nat.xor_left_comm (clmul (a % 256) (b / 256) <<< 8)]

/-! ### The reduction table while RT_VALID = 1 (R191, R192) -/

section ReductionTable

variable {s : State} (hinv : BlockInv s) (hrt : s.rtValid = true)
include hinv hrt

/-- RT_VALID = 1 only at k = 16. -/
theorem BlockInv.rt_order : order s = 16 := by
  rw [order, (hinv.rt hrt).2.1]
  rfl

theorem BlockInv.rt_polyNat_lt : polyNat s < 2 ^ 16 := hinv.rt_order hrt ▸ hinv.polyBelow

/-- MSL8's shift is the reduced multiplication by x^8. -/
theorem shiftReduce8_eq_gfReduce {r : Nat} (hr : r < 65536) :
    shiftReduce8 s r = gfReduce 16 (polyNat s) (r <<< 8) := by
  have hp := hinv.rt_polyNat_lt hrt
  have hentry := rtTable_getElem? (polyNat s) (r / 256) (by omega)
  rw [← (hinv.rt hrt).2.2] at hentry
  have hlow : r % 256 * 256 < 2 ^ 16 := by omega
  have hsplit : r <<< 8 = (r % 256 * 256) ^^^ ((r / 256) <<< 16) := by
    have hbytes := congrArg (· <<< 8) (div_shiftLeft_xor_mod r 8)
    simp only [Nat.shiftLeft_xor_distrib, ← Nat.shiftLeft_add] at hbytes
    rw [← hbytes, Nat.xor_comm, Nat.shiftLeft_eq (r % 2 ^ 8)]
    rfl
  rw [shiftReduce8_of_getElem? hentry, hsplit, gfReduce_xor hp, gfReduce_of_lt hlow,
    BitVec.toNat_ofNat, Nat.mod_eq_of_lt (gfReduce_lt hp _)]

/-- A Horner step of the byte-wise algorithms, after a partial result that is reduced: shift it by
x^8 and add a value of 16 bits. -/
theorem shiftReduce8_gfReduce_xor (x : Nat) {y : Nat} (hy : y < 65536) :
    shiftReduce8 s (gfReduce 16 (polyNat s) x) ^^^ y =
      gfReduce 16 (polyNat s) ((x <<< 8) ^^^ y) := by
  have hp := hinv.rt_polyNat_lt hrt
  rw [shiftReduce8_eq_gfReduce hinv hrt (gfReduce_lt hp x), gfReduce_gfReduce_shiftLeft hp,
    gfReduce_xor hp, gfReduce_of_lt (k := 16) (x := y) hy]

/-- MSL8's shift is MUL by 0x100, which is x^8. -/
theorem shiftReduce8_eq_gfMul {a : Nat} (ha : a < 65536) :
    shiftReduce8 s a = gfMul 16 (polyNat s) a 0x100 := by
  have hp := hinv.rt_polyNat_lt hrt
  have hx8 : clmul a 0x100 = a <<< 8 := by
    rw [clmul_comm]
    exact clmul_one_shiftLeft 8 a
  rw [shiftReduce8_eq_gfReduce hinv hrt ha, 
    gfMul_eq_gfReduce_clmul hp (by omega) ha (by omega), hx8]

/-- MODRB's fold is MODR: its Horner steps put the bytes together again (R198). -/
theorem reduceBytewise_eq_gfReduce {x : Nat} (hx : x < 4294967296) :
    reduceBytewise s x = gfReduce 16 (polyNat s) x := by
  have hzero : shiftReduce8 s 0 = shiftReduce8 s (gfReduce 16 (polyNat s) 0) := by
    rw [gfReduce_of_lt (by omega)]
  have hbyte : ∀ n, x / n % 256 < 65536 := fun n => by omega
  have h3 : (0 <<< 8) ^^^ (x / 16777216 % 256) = x / 16777216 := by
    rw [Nat.zero_shiftLeft, Nat.zero_xor, Nat.mod_eq_of_lt (by omega)]
  have h2 : ((x / 16777216) <<< 8) ^^^ (x / 65536 % 256) = x / 65536 := by
    simpa [Nat.div_div_eq_div_mul] using div_shiftLeft_xor_mod (x / 65536) 8
  have h1 : ((x / 65536) <<< 8) ^^^ (x / 256 % 256) = x / 256 := by
    simpa [Nat.div_div_eq_div_mul] using div_shiftLeft_xor_mod (x / 256) 8
  have h0 : ((x / 256) <<< 8) ^^^ (x % 256) = x := div_shiftLeft_xor_mod x 8
  rw [reduceBytewise_eq, hzero, shiftReduce8_gfReduce_xor hinv hrt _ (hbyte _), h3,
    shiftReduce8_gfReduce_xor hinv hrt _ (hbyte _), h2,
    shiftReduce8_gfReduce_xor hinv hrt _ (hbyte _), h1,
    shiftReduce8_gfReduce_xor hinv hrt _ (by omega), h0]

/-- MULD's product is MUL's: its Horner steps are those of the schoolbook product (R197). -/
theorem mulDecomposed_eq_gfMul {a b : Nat} (ha : a < 65536) (hb : b < 65536) :
    mulDecomposed s a b = gfMul 16 (polyNat s) a b := by
  have hp := hinv.rt_polyNat_lt hrt
  have hbytes : ∀ {u v : Nat}, u < 256 → v < 256 → clmul u v < 65536 := fun hu hv =>
    (clmul_lt (m := 8) (n := 8) (by omega) hu hv).trans (by norm_num)
  have hhi : a / 256 < 256 := by omega
  have hlo : a % 256 < 256 := by omega
  have hb1 : b / 256 < 256 := by omega
  have hb0 : b % 256 < 256 := by omega
  have htop : clmul (a / 256) (b / 256) = gfReduce 16 (polyNat s) (clmul (a / 256) (b / 256)) :=
    (gfReduce_of_lt (hbytes hhi hb1)).symm
  have hmid : clmul (a / 256) (b % 256) ^^^ clmul (a % 256) (b / 256) < 65536 :=
    Nat.xor_lt_two_pow (n := 16) (hbytes hhi hb0) (hbytes hlo hb1)
  rw [mulDecomposed_eq s ha hb, htop, Nat.xor_assoc (shiftReduce8 s _),
    shiftReduce8_gfReduce_xor hinv hrt _ hmid,
    shiftReduce8_gfReduce_xor hinv hrt _ (hbytes hlo hb0), ← clmul_bytes,
    gfMul_eq_gfReduce_clmul hp (by omega) ha hb]

end ReductionTable

/-! ### The conformance laws (R199) -/

/-- Settles O58: the checks agree at k = 16, and the products do (`mulDecomposed_eq_gfMul`). -/
theorem muldEqualsMul : Obligations.MuldEqualsMul := by
  intro rd rs1 rs2 s hinv hrt
  have hk := (hinv.rt hrt).2.1
  have horder := hinv.rt_order hrt
  refine guarded_congr_pass ?_ fun hpass => ?_
  · simp [firstError_cons, needOrder, needRt, needElement, hk, hrt, horder]
  · simp only [firstError_cons_eq_none, needElement_eq_none, horder] at hpass
    obtain ⟨-, h1, h2, -⟩ := hpass
    rw [mulDecomposed_eq_gfMul hinv hrt h1 h2, fieldMul, horder]

/-- Settles O59: the checks agree at k = 16, and the remainders do
(`reduceBytewise_eq_gfReduce`). -/
theorem modrbEqualsModr : Obligations.ModrbEqualsModr := by
  intro rd rs1 s hinv hrt
  have hk := (hinv.rt hrt).2.1
  have hdouble : doubleWidthOf .k16 = 32 := rfl
  refine guarded_congr_pass ?_ fun hpass => ?_
  · simp [firstError_cons, needOrder, needRt, needDouble, hk, hrt, hdouble]
  · simp only [firstError_cons_eq_none, needDouble_eq_none, hk, hdouble] at hpass
    obtain ⟨-, h1, -⟩ := hpass
    rw [reduceBytewise_eq_gfReduce hinv hrt h1, hinv.rt_order hrt]

/-- Settles O60: MSL8's checks pass, and its shift is MUL by x^8 (`shiftReduce8_eq_gfMul`). -/
theorem msl8EqualsMulByX8 : Obligations.Msl8EqualsMulByX8 := by
  intro rd rs1 s hinv hrt h1
  obtain ⟨hcfg, hk, -⟩ := hinv.rt hrt
  rw [← shiftReduce8_eq_gfMul hinv hrt h1]
  exact guarded_of_pass _ _ (by simp [hcfg, hk, hrt, h1])

end Sys2Proof.Machine
end
